-- ==== Sys2Proof/Word.lean ====
section
/-! DEFINITION. The two word types of 00_scope.md R6: 32-bit unsigned words and 8-bit unsigned bytes. `+` on `Word` is
the `+32` of R8, `+` on `BitVec 64` the `+64` of R12, and `&&&`, `|||`, `^^^`, `~~~` the bitwise operations of R11. -/

namespace Sys2Proof

/-- 00_scope.md R6: a 32-bit unsigned word. -/
abbrev Word := BitVec 32

/-- 00_scope.md §5: an 8-bit unsigned byte. -/
abbrev Byte := BitVec 8

end Sys2Proof
end

