-- ==== Sys2Proof/Syntax.lean ====
section
/-! DEFINITION. The seven commands of 30_encoding.md R93, one constructor for each row of spec/opcode_table.json, with
the operand fields of R94 to R100. -/

namespace Sys2Proof

/-- A command (30_encoding.md R93). Every field is an unsigned number taken as it stands in the word (R101). -/
inductive Instr where
  /-- NOP, 30_encoding.md R100. -/
  | nop
  /-- INIT ALG, 30_encoding.md R94. -/
  | init (alg : BitVec 4)
  /-- UPDATE BYTE, 30_encoding.md R95. -/
  | update (byte : Byte)
  /-- FINALIZE, 30_encoding.md R96. -/
  | finalize
  /-- RDDIG IDX, 30_encoding.md R97. -/
  | rddig (idx : BitVec 3)
  /-- RDSTAT, 30_encoding.md R98. -/
  | rdstat
  /-- RDLEN HI, 30_encoding.md R99. -/
  | rdlen (hi : BitVec 1)
  deriving DecidableEq, Repr

/-- The mnemonic column of 30_encoding.md R93. -/
def Instr.mnemonic : Instr → String
  | .nop => "NOP"
  | .init _ => "INIT"
  | .update _ => "UPDATE"
  | .finalize => "FINALIZE"
  | .rddig _ => "RDDIG"
  | .rdstat => "RDSTAT"
  | .rdlen _ => "RDLEN"

end Sys2Proof
end

