-- ==== Sys2Proof/Decode.lean ====
section
/-! DEFINITION. The total decoder of 30_encoding.md R106, the encoder of R93, and R93's opcode map as data. -/

namespace Sys2Proof

/-- Why a word is no command. -/
inductive DecodeError where
  /-- 30_encoding.md R102: OP is one of 0x7..0xF. -/
  | reservedOpcode (op : BitVec 4)
  /-- 30_encoding.md R103: a defined OP with a nonzero reserved bit. -/
  | reservedBits (op : BitVec 4)
  deriving DecidableEq, Repr

/-- 30_encoding.md R91: `OP = cmd[31:28]`. -/
def opcodeOf (cmd : Word) : BitVec 4 := cmd.extractLsb' 28 4

/-- Whether `cmd[27:lo]`, the reserved area above a `lo`-bit operand field, is zero (30_encoding.md R103). -/
def reservedClear (lo : Nat) (cmd : Word) : Bool := cmd.extractLsb' lo (28 - lo) == 0

/-- 30_encoding.md R106, the pseudocode `decode(cmd)`. -/
def decode (cmd : Word) : Except DecodeError Instr :=
  match (opcodeOf cmd).toNat with
  | 0 => if reservedClear 0 cmd then .ok .nop else .error (.reservedBits (opcodeOf cmd))
  | 1 => if reservedClear 4 cmd then .ok (.init (cmd.extractLsb' 0 4)) else .error (.reservedBits (opcodeOf cmd))
  | 2 => if reservedClear 8 cmd then .ok (.update (cmd.extractLsb' 0 8)) else .error (.reservedBits (opcodeOf cmd))
  | 3 => if reservedClear 0 cmd then .ok .finalize else .error (.reservedBits (opcodeOf cmd))
  | 4 => if reservedClear 3 cmd then .ok (.rddig (cmd.extractLsb' 0 3)) else .error (.reservedBits (opcodeOf cmd))
  | 5 => if reservedClear 0 cmd then .ok .rdstat else .error (.reservedBits (opcodeOf cmd))
  | 6 => if reservedClear 1 cmd then .ok (.rdlen (cmd.extractLsb' 0 1)) else .error (.reservedBits (opcodeOf cmd))
  | _ => .error (.reservedOpcode (opcodeOf cmd))

/-- The word of a command: its row's `match` with the operand in its low bits (30_encoding.md R93). -/
def encode : Instr → Word
  | .nop => 0x0000_0000
  | .init alg => 0x1000_0000 ||| alg.setWidth 32
  | .update byte => 0x2000_0000 ||| byte.setWidth 32
  | .finalize => 0x3000_0000
  | .rddig idx => 0x4000_0000 ||| idx.setWidth 32
  | .rdstat => 0x5000_0000
  | .rdlen hi => 0x6000_0000 ||| hi.setWidth 32

/-- One row of 30_encoding.md R93: a word belongs to it when `word & mask = value`. -/
structure OpcodeRow where
  mnemonic : String
  value : Word
  mask : Word
  deriving DecidableEq, Repr

/-- Whether a word belongs to a row (30_encoding.md R93). -/
abbrev OpcodeRow.Matches (r : OpcodeRow) (cmd : Word) : Prop := cmd &&& r.mask = r.value

/-- The (match, mask) table of 30_encoding.md R93. -/
def opcodeTable : List OpcodeRow :=
  [⟨"NOP", 0x0000_0000, 0xFFFF_FFFF⟩,
   ⟨"INIT", 0x1000_0000, 0xFFFF_FFF0⟩,
   ⟨"UPDATE", 0x2000_0000, 0xFFFF_FF00⟩,
   ⟨"FINALIZE", 0x3000_0000, 0xFFFF_FFFF⟩,
   ⟨"RDDIG", 0x4000_0000, 0xFFFF_FFF8⟩,
   ⟨"RDSTAT", 0x5000_0000, 0xFFFF_FFFF⟩,
   ⟨"RDLEN", 0x6000_0000, 0xFFFF_FFFE⟩]

/-- The decoder on a row of spec/opcode_table.json, whose bits are numbered as the command word's own (30_encoding.md
R91: every command is one 32-bit word, so more bits name none). -/
def decodeTableWord (nbits w : Nat) : Option Instr :=
  if nbits ≤ 32 then (decode (BitVec.ofNat 32 (w % 2 ^ nbits))).toOption else none

end Sys2Proof
end

