-- ==== Sys2Proof/Config.lean ====
section
/-! DEFINITION. The free values: what the spec calls unspecified (10_state.md R31, R32; 70_reset_and_hazards.md R270;
93_implementation_defined.md U9, "any value"). Each is an opaque function of the number of the draw, so no proof can know
a value of it (assumption log 6 and 7). The other open parameters are `NUM_INSTANCES`, which has
its bound here, and `INSTANCE_SELECT` (U10): arguments of Machine/Instances.lean. -/

namespace Sys2Proof.Config

/-- H[0..7] after a reset event (70_reset_and_hazards.md R270). -/
opaque freeH : Nat → Vector Word 8

/-- BUF[0..63] after a reset event (70_reset_and_hazards.md R270). -/
opaque freeBuf : Nat → Vector Byte 64

/-- V[0..7] between commands (10_state.md R31) and after a reset event (R270). -/
opaque freeV : Nat → Vector Word 8

/-- W[0..15] between commands (10_state.md R32) and after a reset event (R270). -/
opaque freeW : Nat → Vector Word 16

/-- T between commands (10_state.md R32) and after a reset event (R270). -/
opaque freeT : Nat → BitVec 7

/-- `NUM_INSTANCES`, the number of engines of a platform: 1 or more (00_scope.md R7, 60_exceptions.md R252). -/
structure NumInstances where
  count : Nat
  atLeastOne : 1 ≤ count
  deriving DecidableEq, Repr

end Sys2Proof.Config
end

