-- ==== Sys2Proof/Machine/Primitives.lean ====
section
/-! DEFINITION. The word functions of both compressions: rotations and shift (00_scope.md R9, R10), Ch, Parity and Maj
(41_sha1.md R142, 42_sha256.md R172), the big and small sigmas (42_sha256.md R173, R174). -/

namespace Sys2Proof.Machine

/-- `ROTL^n`, 00_scope.md R9, for 1 ≤ n ≤ 31. -/
def rotl (n : Nat) (x : Word) : Word := (x <<< n) ||| (x >>> (32 - n))

/-- `ROTR^n`, 00_scope.md R10, for 1 ≤ n ≤ 31. -/
def rotr (n : Nat) (x : Word) : Word := (x >>> n) ||| (x <<< (32 - n))

/-- `SHR^n`, 00_scope.md R10. -/
def shr (n : Nat) (x : Word) : Word := x >>> n

/-- `Ch`, 41_sha1.md R142 and 42_sha256.md R172. -/
def ch (x y z : Word) : Word := (x &&& y) ^^^ (~~~x &&& z)

/-- `Parity`, 41_sha1.md R142. -/
def parity (x y z : Word) : Word := x ^^^ y ^^^ z

/-- `Maj`, 41_sha1.md R142 and 42_sha256.md R172. -/
def maj (x y z : Word) : Word := (x &&& y) ^^^ (x &&& z) ^^^ (y &&& z)

/-- `f_t`, 41_sha1.md R142: the round's function, chosen by its range. -/
def roundFn1 (t : Nat) (b c d : Word) : Word :=
  if t < 20 then ch b c d
  else if t < 40 then parity b c d
  else if t < 60 then maj b c d
  else parity b c d

/-- `Σ0`, 42_sha256.md R173. -/
def bigSigma0 (x : Word) : Word := rotr 2 x ^^^ rotr 13 x ^^^ rotr 22 x

/-- `Σ1`, 42_sha256.md R173. -/
def bigSigma1 (x : Word) : Word := rotr 6 x ^^^ rotr 11 x ^^^ rotr 25 x

/-- `σ0`, 42_sha256.md R174. -/
def smallSigma0 (x : Word) : Word := rotr 7 x ^^^ rotr 18 x ^^^ shr 3 x

/-- `σ1`, 42_sha256.md R174. -/
def smallSigma1 (x : Word) : Word := rotr 17 x ^^^ rotr 19 x ^^^ shr 10 x

end Sys2Proof.Machine
end

