-- ==== Sys2Proof/Machine/Sha1.lean ====
section
/-! DEFINITION. COMPRESS1, the SHA-1 compression as the pure function of 41_sha1.md R150. -/

namespace Sys2Proof.Machine

/-- The word after the `W[0..t-1]` given, 41_sha1.md R144 (for t ≥ 16). -/
def nextWord1 (ws : List Word) : Word :=
  let t := ws.length
  rotl 1 (ws.getD (t - 3) 0 ^^^ ws.getD (t - 8) 0 ^^^ ws.getD (t - 14) 0 ^^^ ws.getD (t - 16) 0)

/-- `W[0..15+n]`: the block words and the first `n` words after them, 41_sha1.md R143 and R144. -/
def schedule1 (m : Vector Word 16) : Nat → List Word
  | 0 => m.toList
  | n + 1 => schedule1 m n ++ [nextWord1 (schedule1 m n)]

/-- `ROUND1(t)` on (a, b, c, d, e), 41_sha1.md R145. -/
def round1 (t : Nat) (w : Word) (v : Vector Word 5) : Vector Word 5 :=
  #v[rotl 5 v[0] + roundFn1 t v[1] v[2] v[3] + v[4] + k1 t + w, v[0], rotl 30 v[1], v[2], v[3]]

/-- The rounds from `t` on, one for each schedule word given, 41_sha1.md R150. -/
def rounds1 : Nat → List Word → Vector Word 5 → Vector Word 5
  | _, [], v => v
  | t, w :: ws, v => rounds1 (t + 1) ws (round1 t w v)

/-- `COMPRESS1(Hin, M)`, 41_sha1.md R150, with the add-back of R146. Kept folded in proofs. -/
@[irreducible] def compress1 (hin : Vector Word 5) (m : Vector Word 16) : Vector Word 5 :=
  hin.zipWith (· + ·) (rounds1 0 (schedule1 m 64) hin)

end Sys2Proof.Machine
end

