-- ==== Sys2Proof/Machine/Sha256.lean ====
section
/-! DEFINITION. COMPRESS256, the SHA-256 compression as the pure function of 42_sha256.md R180. -/

namespace Sys2Proof.Machine

/-- The word after the `W[0..t-1]` given, 42_sha256.md R176 (for t ≥ 16). -/
def nextWord256 (ws : List Word) : Word :=
  let t := ws.length
  smallSigma1 (ws.getD (t - 2) 0) + ws.getD (t - 7) 0 + smallSigma0 (ws.getD (t - 15) 0) + ws.getD (t - 16) 0

/-- `W[0..15+n]`: the block words and the first `n` words after them, 42_sha256.md R175 and R176. -/
def schedule256 (m : Vector Word 16) : Nat → List Word
  | 0 => m.toList
  | n + 1 => schedule256 m n ++ [nextWord256 (schedule256 m n)]

/-- `ROUND256(t)` on (a, …, h), 42_sha256.md R177. -/
def round256 (t : Nat) (w : Word) (v : Vector Word 8) : Vector Word 8 :=
  let t1 := v[7] + bigSigma1 v[4] + ch v[4] v[5] v[6] + k256 t + w
  let t2 := bigSigma0 v[0] + maj v[0] v[1] v[2]
  #v[t1 + t2, v[0], v[1], v[2], v[3] + t1, v[4], v[5], v[6]]

/-- The rounds from `t` on, one for each schedule word given, 42_sha256.md R180. -/
def rounds256 : Nat → List Word → Vector Word 8 → Vector Word 8
  | _, [], v => v
  | t, w :: ws, v => rounds256 (t + 1) ws (round256 t w v)

/-- `COMPRESS256(Hin, M)`, 42_sha256.md R180, with the add-back of R178. Kept folded in proofs. -/
@[irreducible] def compress256 (hin : Vector Word 8) (m : Vector Word 16) : Vector Word 8 :=
  hin.zipWith (· + ·) (rounds256 0 (schedule256 m 48) hin)

end Sys2Proof.Machine
end

