-- ==== Sys2Proof/Machine/State.lean ====
section
/-! DEFINITION. The state of one HASHCORE (10_state.md), its host port, the reasons a step can stop, and the state after
reset (70_reset_and_hazards.md R270). -/

namespace Sys2Proof.Machine

/-- `LS`, 10_state.md R20: three legal values, the fourth code never held (assumption log 11). -/
inductive Lifecycle where
  | uninit
  | ready
  | final
  deriving DecidableEq, Repr

/-- `ALG`, 10_state.md R22 (assumption log 11). -/
inductive Algorithm where
  | sha1
  | sha256
  deriving DecidableEq, Repr

/-- The two errors of 60_exceptions.md R240. -/
inductive ErrorKind where
  | sequenceError
  | illegalCommand
  deriving DecidableEq, Repr

/-- The hidden datapath registers of 10_state.md R31 and R32. R32 gives T a range, 0 to 79, and no width: its 7 bits, the
fewest that hold the range, are the model's choice (DESIGN CHOICE, assumption log 18). -/
structure Datapath where
  /-- V[0..7], named a..e (SHA-1) or a..h (SHA-256), R31. -/
  v : Vector Word 8
  /-- The schedule window W[0..15], R32. -/
  w : Vector Word 16
  /-- The round counter T, R32; 7 bits by assumption log 18. -/
  t : BitVec 7
  deriving DecidableEq, Repr

/-- One engine's own state (10_state.md). -/
structure Engine where
  /-- LS, R20. -/
  ls : Lifecycle
  /-- ALG, R22. -/
  alg : Algorithm
  /-- H[0..7], R23. -/
  h : Vector Word 8
  /-- BUF[0..63], R24. -/
  buf : Vector Byte 64
  /-- FILL, R25. -/
  fill : BitVec 7
  /-- LEN, R26. -/
  len : BitVec 64
  /-- LOVF, R27. -/
  lovf : Bool
  /-- ERR, R28. -/
  err : Bool
  /-- ERRCODE, R28. -/
  errcode : BitVec 2
  /-- V, W and T, R31 and R32. -/
  dp : Datapath
  /-- The model's own counter of free values drawn (assumption log 6); no register of the hardware. -/
  draws : Nat
  deriving DecidableEq, Repr

/-- The response of a command, `(RSP_ERR, RSP_DATA)` (30_encoding.md R92). -/
structure Response where
  err : BitVec 2
  data : Word
  deriving DecidableEq, Repr

/-- What the outside does to the engine, one at a time (assumption log 1 and 7). -/
inductive HostInput where
  /-- The host presents a command word (30_encoding.md R90). -/
  | command (cmd : Word)
  /-- Reset between two commands (70_reset_and_hazards.md R270). -/
  | reset
  /-- Reset asserted while this command is being performed (70_reset_and_hazards.md R272). -/
  | resetDuring (cmd : Word)
  deriving DecidableEq, Repr

/-- The engine, the host's stream of inputs still to come, and the last response. -/
structure State where
  engine : Engine
  /-- The inputs the host has still to give, first one first; the host's, not the engine's (10_state.md R21). -/
  inputs : List HostInput
  /-- The response of the last command performed (30_encoding.md R92); none before the first. -/
  rsp : Option Response
  deriving DecidableEq, Repr

/-- Why a step stops. The two errors of 60_exceptions.md are no stops: they are next states. -/
inductive Fault where
  /-- Raised by UPDATE and FINALIZE where ABSORB would be entered with FILL >= 64, which 10_state.md R25 and 40_buffer.md
  R120 say never happens. Safe: the machine stops, and no state a run reaches has it (assumption log 9). -/
  | fillBeyondBlock
  deriving DecidableEq, Repr

/-- Why an instruction has no meaning. -/
inductive Refusal where
  /-- Raised by an arm of `exec` for an instruction not modelled yet; no arm does now. Safe: the machine stops. -/
  | notModelled (mnemonic : String)
  deriving DecidableEq, Repr

/-- 70_reset_and_hazards.md R270: the engine after RESET, whose unspecified registers hold the values given. -/
def Engine.afterReset (h : Vector Word 8) (buf : Vector Byte 64) (dp : Datapath) (draws : Nat) : Engine where
  ls := .uninit
  alg := .sha1
  h := h
  buf := buf
  fill := 0
  len := 0
  lovf := false
  err := false
  errcode := 0
  dp := dp
  draws := draws

/-- The machine right after reset (70_reset_and_hazards.md R270). H, BUF, V, W and T, unspecified there, hold zero (DESIGN
CHOICE, unsafe, assumption log 3, 4 and 5); no input is waiting and no response has been given (log 1 and 2). -/
def State.reset : State where
  engine := Engine.afterReset (Vector.replicate 8 0) (Vector.replicate 64 0)
    ⟨Vector.replicate 8 0, Vector.replicate 16 0, 0⟩ 0
  inputs := []
  rsp := none

/-- What a step of this machine answers. -/
abbrev Result := Host.Outcome State Fault Refusal

end Sys2Proof.Machine
end

