-- ==== Sys2Proof/Machine/Datapath.lean ====
section
/-! DEFINITION. The round datapaths the spec permits (41_sha1.md R151, R152; 42_sha256.md R181, R182): one round a step
over the hidden registers V, the sixteen-word window W and the counter T (10_state.md R31, R32). They run inside one
command, so no command reads them; the meanings use the pure functions (assumption log 12). -/

namespace Sys2Proof.Machine

/-- `Wwin[k mod 16]`. -/
def slot (w : Vector Word 16) (k : Nat) : Word := w[k % 16]'(Nat.mod_lt k (by decide))

/-- `Wwin[k mod 16] <- x`. -/
def setSlot (w : Vector Word 16) (k : Nat) (x : Word) : Vector Word 16 := w.set (k % 16) x (Nat.mod_lt k (by decide))

/-- The window in SHA-1 round `t`: from round 16 on, slot `t mod 16` is overwritten (41_sha1.md R151). -/
def window1 (t : Nat) (w : Vector Word 16) : Vector Word 16 :=
  if t < 16 then w
  else setSlot w t (rotl 1 (slot w (t - 3) ^^^ slot w (t - 8) ^^^ slot w (t - 14) ^^^ slot w t))

/-- The window in SHA-256 round `t`: from round 16 on, slot `t mod 16` is overwritten (42_sha256.md R181). -/
def window256 (t : Nat) (w : Vector Word 16) : Vector Word 16 :=
  if t < 16 then w
  else setSlot w t (smallSigma1 (slot w (t - 2)) + slot w (t - 7) + smallSigma0 (slot w (t - 15)) + slot w t)

/-- The first five registers, V[0..4] or H[0..4]. -/
def lowFive (v : Vector Word 8) : Vector Word 5 := #v[v[0], v[1], v[2], v[3], v[4]]

/-- Writes the first five registers and leaves the last three. -/
def setLowFive (x : Vector Word 5) (v : Vector Word 8) : Vector Word 8 := #v[x[0], x[1], x[2], x[3], x[4], v[5], v[6], v[7]]

/-- The start of a SHA-1 compression: V[0..4] from H, W from the block, T = 0 (10_state.md R31, R32). -/
def Datapath.load1 (h : Vector Word 8) (m : Vector Word 16) (d : Datapath) : Datapath where
  v := setLowFive (lowFive h) d.v
  w := m
  t := 0

/-- One SHA-1 round step (41_sha1.md R145, R151, R152). -/
def Datapath.step1 (d : Datapath) : Datapath where
  v := setLowFive (round1 d.t.toNat (slot (window1 d.t.toNat d.w) d.t.toNat) (lowFive d.v)) d.v
  w := window1 d.t.toNat d.w
  t := d.t + 1

/-- `n` SHA-1 round steps. -/
def Datapath.steps1 : Nat → Datapath → Datapath
  | 0, d => d
  | n + 1, d => Datapath.steps1 n d.step1

/-- The end of a SHA-1 compression: V[0..4] added back into H[0..4] (41_sha1.md R146). -/
def Datapath.addBack1 (h : Vector Word 8) (d : Datapath) : Vector Word 5 :=
  (lowFive h).zipWith (· + ·) (lowFive d.v)

/-- The start of a SHA-256 compression: V from H, W from the block, T = 0 (10_state.md R31, R32). -/
def Datapath.load256 (h : Vector Word 8) (m : Vector Word 16) : Datapath where
  v := h
  w := m
  t := 0

/-- One SHA-256 round step (42_sha256.md R177, R181, R182). -/
def Datapath.step256 (d : Datapath) : Datapath where
  v := round256 d.t.toNat (slot (window256 d.t.toNat d.w) d.t.toNat) d.v
  w := window256 d.t.toNat d.w
  t := d.t + 1

/-- `n` SHA-256 round steps. -/
def Datapath.steps256 : Nat → Datapath → Datapath
  | 0, d => d
  | n + 1, d => Datapath.steps256 n d.step256

/-- The end of a SHA-256 compression: V added back into H (42_sha256.md R178). -/
def Datapath.addBack256 (h : Vector Word 8) (d : Datapath) : Vector Word 8 := h.zipWith (· + ·) d.v

end Sys2Proof.Machine
end

