-- ==== Sys2Proof/Machine/Flags.lean ====
section
/-! DEFINITION. The status fields: the codes of LS, ALG and the errors, LOVF's rule (10_state.md R27), first-error capture
(R28) and the STATUS word (R29). -/

namespace Sys2Proof.Machine

/-- The code of LS (10_state.md R20). -/
def Lifecycle.code : Lifecycle → BitVec 2
  | .uninit => 0
  | .ready => 1
  | .final => 2

/-- The code of ALG (10_state.md R22). -/
def Algorithm.code : Algorithm → BitVec 1
  | .sha1 => 0
  | .sha256 => 1

/-- RSP_ERR of a command that succeeded (60_exceptions.md R240). -/
def okCode : BitVec 2 := 0

/-- The code of an error (60_exceptions.md R240). -/
def ErrorKind.code : ErrorKind → BitVec 2
  | .sequenceError => 1
  | .illegalCommand => 2

/-- LOVF after an UPDATE: `LOVF | (LEN_old >= 2^61 - 1)`, with LEN before the increment (10_state.md R27). -/
def lovfAfterUpdate (lovf : Bool) (len : BitVec 64) : Bool := lovf || decide (2 ^ 61 - 1 ≤ len.toNat)

/-- ERRCODE after an error: written only if ERR was 0 (10_state.md R28, 60_exceptions.md R241). -/
def capturedCode (err : Bool) (errcode : BitVec 2) (e : ErrorKind) : BitVec 2 := if err then errcode else e.code

/-- The STATUS word (10_state.md R29):
`{18'b0, FILL[5:0], 1'b0, LOVF, ERRCODE[1:0], ERR, ALG, LS[1:0]}`. -/
def statusWord (e : Engine) : Word :=
  (0 : BitVec 18) ++ e.fill.extractLsb' 0 6 ++ (0 : BitVec 1) ++ BitVec.ofBool e.lovf ++ e.errcode ++
    BitVec.ofBool e.err ++ e.alg.code ++ e.ls.code

end Sys2Proof.Machine
end

