-- ==== Sys2Proof/Machine/Operands.lean ====
section
/-! DEFINITION. The operand forms: the big-endian block words (20_memory.md R62), the length suffix (R63), the digest
bytes (R64), the length views (10_state.md R30), the indexed hash word (30_encoding.md R97) and the INIT operand (R94). -/

namespace Sys2Proof.Machine

/-- `n(ALG)`, the number of active hash words (10_state.md R22). -/
def activeWords : Algorithm → Nat
  | .sha1 => 5
  | .sha256 => 8

/-- `BufRead(i, 1)`: byte `i` of the block buffer (20_memory.md R61), for i ≤ 63. -/
def bufByte (buf : Vector Byte 64) (i : Nat) : Byte := buf.getD i 0

/-- `BufRead(4j, 4)`: block word `j`, byte 4j the most significant (20_memory.md R62). -/
def blockWord (buf : Vector Byte 64) (j : Nat) : Word :=
  bufByte buf (4 * j) ++ bufByte buf (4 * j + 1) ++ bufByte buf (4 * j + 2) ++ bufByte buf (4 * j + 3)

/-- `M[0..15]`, the sixteen block words (20_memory.md R62). -/
def blockWords (buf : Vector Byte 64) : Vector Word 16 := Vector.ofFn fun j => blockWord buf j.val

/-- `L = (LEN * 8) mod 2^64`, the bit length FINALIZE injects (43_hasher_commands.md R206). -/
def bitLength (len : BitVec 64) : BitVec 64 := len * 8

/-- The eight suffix bytes, most significant first: byte `k` is `L[63 - 8k : 56 - 8k]` (20_memory.md R63). -/
def suffixBytes (l : BitVec 64) : List Byte :=
  (List.range 8).map fun k => l.extractLsb' (56 - 8 * k) 8

/-- The length view RDLEN reads: LEN_LO for HI = 0 and LEN_HI for HI = 1 (30_encoding.md R99, 10_state.md R30). -/
def lenView (hi : BitVec 1) (len : BitVec 64) : Word :=
  if hi = 0 then len.extractLsb' 0 32 else len.extractLsb' 32 32

/-- `H[IDX]` (30_encoding.md R97). -/
def hashWord (h : Vector Word 8) (idx : BitVec 3) : Word := h[idx.toNat]'idx.isLt

/-- The algorithm a legal INIT operand names: `ALG[0]` (30_encoding.md R94). -/
def algorithmOf (alg : BitVec 4) : Algorithm := if alg.extractLsb' 0 1 = 0 then .sha1 else .sha256

/-- Digest byte `k`: `H[k div 4][31 - 8(k mod 4) : 24 - 8(k mod 4)]` (20_memory.md R64). -/
def digestByte (h : Vector Word 8) (k : Nat) : Byte := (h.getD (k / 4) 0).extractLsb' (24 - 8 * (k % 4)) 8

/-- The digest bytes, 20 for SHA-1 and 32 for SHA-256 (20_memory.md R64). -/
def digestBytes (alg : Algorithm) (h : Vector Word 8) : List Byte :=
  (List.range (4 * activeWords alg)).map (digestByte h)

end Sys2Proof.Machine
end

