-- ==== Sys2Proof/Machine/Legality.lean ====
section
/-! DEFINITION. The two checks after decoding: operand values, then lifecycle (43_hasher_commands.md R200). -/

namespace Sys2Proof.Machine

/-- Whether a command's operand is in its legal range: INIT's ALG < 2 (30_encoding.md R104) and RDDIG's IDX < n(ALG)
(43_hasher_commands.md R208). -/
def operandLegal (i : Instr) (alg : Algorithm) : Bool :=
  match i with
  | .nop => true
  | .init a => a.toNat < 2
  | .update _ => true
  | .finalize => true
  | .rddig idx => idx.toNat < activeWords alg
  | .rdstat => true
  | .rdlen _ => true

/-- The table LEGAL(c, LS) of 43_hasher_commands.md R200. -/
def lifecycleLegal (i : Instr) (ls : Lifecycle) : Bool :=
  match i with
  | .nop => true
  | .init _ => true
  | .update _ => decide (ls = .ready)
  | .finalize => decide (ls = .ready)
  | .rddig _ => decide (ls = .final)
  | .rdstat => true
  | .rdlen _ => true

end Sys2Proof.Machine
end

