-- ==== Sys2Proof/Machine/Ops.lean ====
section
/-! DEFINITION. The shared operations: ABSORB and DRAIN (40_buffer.md R120, R122), the padding controller's loops
(43_hasher_commands.md R204), the response (30_encoding.md R92), raising an error (60_exceptions.md R241) and clearing the
error flags (R248), the checks before a command (43_hasher_commands.md R200), and the reset event
(70_reset_and_hazards.md R270). -/

namespace Sys2Proof.Machine

/-- The initial hash words INIT loads; H[5..7] are 0 under SHA-1 (43_hasher_commands.md R202). -/
def initialHash : Algorithm → Vector Word 8
  | .sha1 => setLowFive romIV1 (Vector.replicate 8 0)
  | .sha256 => romIV256

/-- One block compressed into H by the algorithm selected; H[5..7] are not touched under SHA-1 (40_buffer.md R122). -/
def compressInto (alg : Algorithm) (h : Vector Word 8) (m : Vector Word 16) : Vector Word 8 :=
  match alg with
  | .sha1 => setLowFive (compress1 (lowFive h) m) h
  | .sha256 => compress256 h m

/-- The free values V, W and T hold after the `n`-th draw (10_state.md R31, R32; assumption log 6), the same
for every engine (assumption log 19). -/
def freeDatapath (n : Nat) : Datapath where
  v := Config.freeV n
  w := Config.freeW n
  t := Config.freeT n

/-- `DRAIN()`, 40_buffer.md R122. V, W and T are left unspecified (10_state.md R31, R32; assumption log 6). -/
def Engine.drain (e : Engine) : Engine :=
  { e with
    h := compressInto e.alg e.h (blockWords e.buf)
    dp := freeDatapath e.draws
    draws := e.draws + 1 }

/-- `BUF[FILL] <- b; FILL <- FILL + 1`, the first half of ABSORB (40_buffer.md R120). -/
def Engine.put (e : Engine) (b : Byte) : Engine :=
  { e with
    buf := e.buf.setIfInBounds e.fill.toNat b
    fill := e.fill + 1 }

/-- `ABSORB(b)`, 40_buffer.md R120: a full block is drained at once. -/
def Engine.absorb (e : Engine) (b : Byte) : Engine :=
  if (e.put b).fill = 64 then { (e.put b).drain with fill := 0 } else e.put b

/-- ABSORB of each byte in order (43_hasher_commands.md R204, the suffix loop). -/
def Engine.absorbAll (e : Engine) (bs : List Byte) : Engine := bs.foldl Engine.absorb e

/-- `while FILL != 56: ABSORB(0x00)`, 43_hasher_commands.md R204, at most `n` times (assumption log 10). -/
def Engine.padZeros : Nat → Engine → Engine
  | 0, e => e
  | n + 1, e => if e.fill = 56 then e else Engine.padZeros n (e.absorb 0x00)

/-- Raises an error, the one shared operation of 60_exceptions.md R241: the first code is captured, ERR is set, the
response carries the code and data 0, and nothing else is written. -/
def raise (k : ErrorKind) (s : State) : State :=
  { s with
    engine := { s.engine with errcode := capturedCode s.engine.err s.engine.errcode k, err := true }
    rsp := some ⟨k.code, 0⟩ }

/-- The clearing of the error flags by a successful INIT (60_exceptions.md R248); the spec has no return from an error
(R247). -/
def Engine.clearErrors (e : Engine) : Engine := { e with err := false, errcode := 0 }

/-- `respond(OK, data)` (30_encoding.md R92). -/
def respondOk (data : Word) (s : State) : State := { s with rsp := some ⟨okCode, data⟩ }

/-- The command's effect on the engine, and `respond(OK, 0)`. -/
def complete (e : Engine) (s : State) : State := respondOk 0 { s with engine := e }

/-- The checks of STEP(cmd) on a decoded command, in their order, and then the command itself
(43_hasher_commands.md R200, 60_exceptions.md R244). -/
def checked (i : Instr) (s : State) (perform : State → Result) : Result :=
  if operandLegal i s.engine.alg = false then .next (raise .illegalCommand s)
  else if lifecycleLegal i s.engine.ls = false then .next (raise .sequenceError s)
  else perform s

/-- Goes on where ABSORB may be entered, FILL ≤ 63, and stops elsewhere (40_buffer.md R120, 10_state.md R25; assumption
log 9). -/
def whereFillFits (s : State) (r : Result) : Result :=
  if s.engine.fill.toNat < 64 then r else .fault .fillBeyondBlock

/-- The reset event during a run: RESET of 70_reset_and_hazards.md R270, with free values in the registers it leaves
unspecified, and no response (R272; assumption log 7). The free values depend on this engine's own draw count and on no
instance index, so two engines reset at one count hold equal ones (DESIGN CHOICE, unsafe, assumption log 19). -/
def resetEvent (s : State) : State :=
  { s with
    engine := Engine.afterReset (Config.freeH s.engine.draws) (Config.freeBuf s.engine.draws)
      (freeDatapath s.engine.draws) (s.engine.draws + 1)
    rsp := none }

end Sys2Proof.Machine
end

