-- ==== Sys2Proof/Machine/Hasher.lean ====
section
/-! DEFINITION. The commands that leave or change the message: NOP, INIT, UPDATE, FINALIZE (43_hasher_commands.md R201 to
R204). -/

namespace Sys2Proof.Machine

/-- NOP, 43_hasher_commands.md R201. -/
def execNop (s : State) : Result := checked .nop s fun s => .next (respondOk 0 s)

/-- `INIT(a)` on the engine, 43_hasher_commands.md R202; BUF keeps its bytes. -/
def Engine.startMessage (a : Algorithm) (e : Engine) : Engine :=
  { e with
    alg := a
    h := initialHash a
    fill := 0
    len := 0
    lovf := false
    ls := .ready }.clearErrors

/-- INIT ALG, 43_hasher_commands.md R202. -/
def execInit (alg : BitVec 4) (s : State) : Result :=
  checked (.init alg) s fun s => .next (complete (s.engine.startMessage (algorithmOf alg)) s)

/-- `UPDATE(b)` on the engine, 43_hasher_commands.md R203. -/
def Engine.updateByte (b : Byte) (e : Engine) : Engine :=
  { e with lovf := lovfAfterUpdate e.lovf e.len, len := e.len + 1 }.absorb b

/-- UPDATE BYTE, 43_hasher_commands.md R203. -/
def execUpdate (byte : Byte) (s : State) : Result :=
  checked (.update byte) s fun s => whereFillFits s (.next (complete (s.engine.updateByte byte) s))

/-- The marker and the zero bytes of FINALIZE, 43_hasher_commands.md R204. -/
def Engine.padMessage (e : Engine) : Engine := Engine.padZeros 64 (e.absorb 0x80)

/-- `FINALIZE()` on the engine, 43_hasher_commands.md R204. -/
def Engine.finish (e : Engine) : Engine :=
  { e.padMessage.absorbAll (suffixBytes (bitLength e.len)) with ls := .final }

/-- FINALIZE, 43_hasher_commands.md R204. -/
def execFinalize (s : State) : Result :=
  checked .finalize s fun s => whereFillFits s (.next (complete s.engine.finish s))

end Sys2Proof.Machine
end

