-- ==== Sys2Proof/Machine/Reads.lean ====
section
/-! DEFINITION. The read commands: RDDIG, RDSTAT, RDLEN (43_hasher_commands.md R208 to R210). None changes the engine
(20_memory.md R69). -/

namespace Sys2Proof.Machine

/-- RDDIG IDX, 43_hasher_commands.md R208. -/
def execRddig (idx : BitVec 3) (s : State) : Result :=
  checked (.rddig idx) s fun s => .next (respondOk (hashWord s.engine.h idx) s)

/-- RDSTAT, 43_hasher_commands.md R209. -/
def execRdstat (s : State) : Result := checked .rdstat s fun s => .next (respondOk (statusWord s.engine) s)

/-- RDLEN HI, 43_hasher_commands.md R210. -/
def execRdlen (hi : BitVec 1) (s : State) : Result :=
  checked (.rdlen hi) s fun s => .next (respondOk (lenView hi s.engine.len) s)

end Sys2Proof.Machine
end

