-- ==== Sys2Proof/Machine/Dispatch.lean ====
section
/-! DEFINITION. The meaning of each command, one arm each. -/

namespace Sys2Proof.Machine

def exec (i : Instr) (s : State) : Host.Outcome State Fault Refusal :=
  match i with
  | .nop => Sys2Proof.Machine.execNop s
  | .init alg => Sys2Proof.Machine.execInit alg s
  | .update byte => Sys2Proof.Machine.execUpdate byte s
  | .finalize => Sys2Proof.Machine.execFinalize s
  | .rddig idx => Sys2Proof.Machine.execRddig idx s
  | .rdstat => Sys2Proof.Machine.execRdstat s
  | .rdlen hi => Sys2Proof.Machine.execRdlen hi s

end Sys2Proof.Machine
end

