-- ==== Sys2Proof/Machine/Command.lean ====
section
/-! DEFINITION. One turn of the machine: the next host input taken and performed to its end (30_encoding.md R90,
43_hasher_commands.md R200, 70_reset_and_hazards.md R270 and R272). -/

namespace Sys2Proof.Machine

/-- `STEP(cmd)`, 43_hasher_commands.md R200: a word that is no command raises IllegalCommand (30_encoding.md R102, R103). -/
def performWord (cmd : Word) (s : State) : Result :=
  match decode cmd with
  | .error _ => .next (raise .illegalCommand s)
  | .ok i => exec i s

/-- One host input. Reset during a command abandons it (70_reset_and_hazards.md R272). -/
def takeInput (x : HostInput) (s : State) : Result :=
  match x with
  | .command cmd => performWord cmd s
  | .reset => .next (resetEvent s)
  | .resetDuring _ => .next (resetEvent s)

/-- One turn: with no input the engine is idle and holds all its state (60_exceptions.md R254). -/
def turn (s : State) : Result :=
  match s.inputs with
  | [] => .next s
  | x :: rest => takeInput x { s with inputs := rest }

/-- The host presents a command word before all the inputs it has still to give. -/
def present (cmd : Word) (s : State) : State := { s with inputs := .command cmd :: s.inputs }

end Sys2Proof.Machine
end

