-- ==== Sys2Proof/Machine/Step.lean ====
section
/-! DEFINITION. The step function, and how the host places one command word as the next to be performed. -/

namespace Sys2Proof.Machine

/-- One atomic step: one command of the host, or one reset, performed to its end (20_memory.md R68, R71). -/
def step (s : State) : Host.Outcome State Fault Refusal := turn s

/-- The command word of an opcode-table row presented as the next command (30_encoding.md R90; HASHCORE fetches nothing,
20_memory.md R73; assumption log 1). -/
def State.withFetchWord (s : State) (nbits w : Nat) : State := present (BitVec.ofNat 32 (w % 2 ^ nbits)) s

end Sys2Proof.Machine
end

