-- ==== Sys2Proof/Machine/Assembler.lean ====
section
/-! DEFINITION. The assembler of 30_encoding.md R107 and the pseudo-commands of R108: statements with operands as the
programmer writes them, their expansion into commands, and the text of a line. No part of the engine reads it; it says
which command words a program text stands for (assumption log 15). -/

namespace Sys2Proof.Machine

/-- A statement of the assembler (30_encoding.md R107, R108). Operands are the numbers written, in range or not. -/
inductive AsmStmt where
  | nop
  | initAlg (a : Algorithm)
  | initNum (n : Nat)
  | update (byte : Nat)
  | finalize
  | rddig (idx : Nat)
  | rdstat
  | rdlen (hi : Bool)
  | updates (bytes : List Nat)
  | rddigAll
  | hash (a : Algorithm) (bytes : List Nat)
  deriving DecidableEq, Repr

/-- The ALG operand of an algorithm (30_encoding.md R94). -/
def algOperand : Algorithm → BitVec 4
  | .sha1 => 0
  | .sha256 => 1

/-- `UPDATE` of each byte in order, refused where one is above 255 (30_encoding.md R107, R108). -/
def assembleBytes (bytes : List Nat) : Option (List Instr) :=
  if bytes.all (· < 256) then some (bytes.map fun b => .update (BitVec.ofNat 8 b)) else none

/-- `RDDIG 0; …; RDDIG n-1` (30_encoding.md R108). -/
def rddigAllOf (a : Algorithm) : List Instr := (List.range (activeWords a)).map fun i => .rddig (BitVec.ofNat 3 i)

/-- The commands of one statement; `last` is the algorithm of the last INIT, which RDDIGALL needs. An operand out of range
is refused, not truncated (30_encoding.md R107, R108). -/
def assembleStmt (last : Option Algorithm) (st : AsmStmt) : Option (List Instr) :=
  match st with
  | .nop => some [.nop]
  | .initAlg a => some [.init (algOperand a)]
  | .initNum n => if n < 16 then some [.init (BitVec.ofNat 4 n)] else none
  | .update b => if b < 256 then some [.update (BitVec.ofNat 8 b)] else none
  | .finalize => some [.finalize]
  | .rddig i => if i < 8 then some [.rddig (BitVec.ofNat 3 i)] else none
  | .rdstat => some [.rdstat]
  | .rdlen hi => some [.rdlen (BitVec.ofBool hi)]
  | .updates bs => assembleBytes bs
  | .rddigAll => last.map rddigAllOf
  | .hash a bs => (assembleBytes bs).map fun us => .init (algOperand a) :: us ++ [.finalize] ++ rddigAllOf a

/-- The algorithm of the last INIT after a statement; an INIT with a reserved ALG selects none (30_encoding.md R104). -/
def lastAlgorithm (last : Option Algorithm) (st : AsmStmt) : Option Algorithm :=
  match st with
  | .initAlg a => some a
  | .initNum n => if n = 0 then some .sha1 else if n = 1 then some .sha256 else last
  | .hash a _ => some a
  | .nop | .update _ | .finalize | .rddig _ | .rdstat | .rdlen _ | .updates _ | .rddigAll => last

/-- The command words of a program, refused where one statement is (30_encoding.md R107). -/
def assemble : Option Algorithm → List AsmStmt → Option (List Word)
  | _, [] => some []
  | last, st :: rest =>
    match assembleStmt last st, assemble (lastAlgorithm last st) rest with
    | some is, some ws => some (is.map encode ++ ws)
    | _, _ => none

/-- Drops blanks. -/
def skipBlanks (cs : List Char) : List Char := cs.dropWhile fun c => c = ' ' || c = '\t'

/-- Nothing but blanks and a comment is left: `;` starts a comment (30_encoding.md R107). -/
def atEnd (cs : List Char) : Bool :=
  match skipBlanks cs with
  | [] => true
  | c :: _ => c = ';'

/-- The number a digit character stands for, below the base. -/
def digitOf (base : Nat) (c : Char) : Option Nat :=
  let n := c.toNat
  let d :=
    if 48 ≤ n ∧ n ≤ 57 then n - 48
    else if 97 ≤ n ∧ n ≤ 102 then n - 87
    else if 65 ≤ n ∧ n ≤ 70 then n - 55
    else base
  if d < base then some d else none

/-- Reads digits on from a value read so far. -/
def readDigits (base acc : Nat) : List Char → Nat × List Char
  | [] => (acc, [])
  | c :: cs =>
    match digitOf base c with
    | some d => readDigits base (acc * base + d) cs
    | none => (acc, c :: cs)

/-- A number of at least one digit. -/
def readNumber (base : Nat) (cs : List Char) : Option (Nat × List Char) :=
  match cs with
  | [] => none
  | c :: rest => (digitOf base c).map fun d => readDigits base d rest

/-- A byte operand: `0x..` hex, decimal, or `'c'` for an ASCII character (30_encoding.md R107). -/
def readByte (cs : List Char) : Option (Nat × List Char) :=
  match cs with
  | '\'' :: c :: '\'' :: rest => if c.toNat < 128 then some (c.toNat, rest) else none
  | '0' :: 'x' :: rest => readNumber 16 rest
  | cs => readNumber 10 cs

/-- The bytes of a string up to its closing quote, ASCII characters only (30_encoding.md R108). -/
def readString : List Char → Option (List Nat × List Char)
  | [] => none
  | c :: cs =>
    if c = '"' then some ([], cs)
    else if c.toNat < 128 then (readString cs).map fun r => (c.toNat :: r.1, r.2)
    else none

/-- Bytes separated by commas, at most `n` of them. -/
def readByteList : Nat → List Char → Option (List Nat × List Char)
  | 0, _ => none
  | n + 1, cs =>
    match readByte (skipBlanks cs) with
    | none => none
    | some (b, rest) =>
      match skipBlanks rest with
      | ',' :: more => (readByteList n more).map fun r => (b :: r.1, r.2)
      | rest => some ([b], rest)

/-- The bytes operand of UPDATES and HASH: a string, a list of bytes, or nothing at all (30_encoding.md R108). -/
def readBytes (cs : List Char) : Option (List Nat × List Char) :=
  if atEnd cs then some ([], cs)
  else
    match skipBlanks cs with
    | '"' :: rest => readString rest
    | rest => readByteList (rest.length + 1) rest

/-- A word of letters and digits, as long as they go: so an operand that begins with one is parted from its mnemonic by a
blank (assumption log 15). -/
def readWord (cs : List Char) : List Char × List Char :=
  (cs.takeWhile Char.isAlphanum, cs.dropWhile Char.isAlphanum)

/-- The algorithm a name stands for (30_encoding.md R107). -/
def algorithmNamed (w : List Char) : Option Algorithm :=
  if w = ['s', 'h', 'a', '1'] then some .sha1
  else if w = ['s', 'h', 'a', '2', '5', '6'] then some .sha256
  else none

/-- The statement, if nothing but a comment follows its operand. -/
def closed (st : AsmStmt) (rest : List Char) : Option AsmStmt := if atEnd rest then some st else none

/-- The operand of INIT: an algorithm's name or a number (30_encoding.md R107). -/
def readInit (cs : List Char) : Option AsmStmt :=
  match algorithmNamed (readWord cs).1 with
  | some a => closed (.initAlg a) (readWord cs).2
  | none => (readNumber 10 cs).bind fun r => closed (.initNum r.1) r.2

/-- The operand of RDLEN: `lo` or `hi` (30_encoding.md R107). -/
def readHalf (cs : List Char) : Option AsmStmt :=
  if (readWord cs).1 = ['l', 'o'] then closed (.rdlen false) (readWord cs).2
  else if (readWord cs).1 = ['h', 'i'] then closed (.rdlen true) (readWord cs).2
  else none

/-- The operands of HASH: an algorithm's name, a comma and the bytes (30_encoding.md R108). -/
def readHash (cs : List Char) : Option AsmStmt :=
  match algorithmNamed (readWord cs).1, skipBlanks (readWord cs).2 with
  | some a, ',' :: rest => (readBytes rest).bind fun r => closed (.hash a r.1) r.2
  | _, _ => none

/-- The statement a mnemonic and the text after it stand for (30_encoding.md R107, R108). -/
def readStmt (mnemonic operand : List Char) : Option AsmStmt :=
  let cs := skipBlanks operand
  if mnemonic = ['N', 'O', 'P'] then closed .nop cs
  else if mnemonic = ['I', 'N', 'I', 'T'] then readInit cs
  else if mnemonic = ['U', 'P', 'D', 'A', 'T', 'E'] then (readByte cs).bind fun r => closed (.update r.1) r.2
  else if mnemonic = ['F', 'I', 'N', 'A', 'L', 'I', 'Z', 'E'] then closed .finalize cs
  else if mnemonic = ['R', 'D', 'D', 'I', 'G'] then (readNumber 10 cs).bind fun r => closed (.rddig r.1) r.2
  else if mnemonic = ['R', 'D', 'S', 'T', 'A', 'T'] then closed .rdstat cs
  else if mnemonic = ['R', 'D', 'L', 'E', 'N'] then readHalf cs
  else if mnemonic = ['U', 'P', 'D', 'A', 'T', 'E', 'S'] then (readBytes cs).bind fun r => closed (.updates r.1) r.2
  else if mnemonic = ['R', 'D', 'D', 'I', 'G', 'A', 'L', 'L'] then closed .rddigAll cs
  else if mnemonic = ['H', 'A', 'S', 'H'] then readHash cs
  else none

/-- One line of text: one statement, or refused (30_encoding.md R107), or no statement where it is blank or a comment alone.
That a line may hold no command is the model's choice, R107 being silent on it (DESIGN CHOICE, assumption log 15). R107 does
not say whether a blank must stand between a mnemonic and its operand: none need stand before an operand that begins with a
quote, as in `UPDATE'a'` and `UPDATES"abc"` (DESIGN CHOICE, assumption log 15). -/
def readLine (line : List Char) : Option (List AsmStmt) :=
  if atEnd line then some []
  else (readStmt (readWord (skipBlanks line)).1 (readWord (skipBlanks line)).2).map fun st => [st]

/-- The command words of a program's lines (30_encoding.md R107). -/
def assembleLines (lines : List (List Char)) : Option (List Word) :=
  (lines.mapM readLine).bind fun sts => assemble none sts.flatten

end Sys2Proof.Machine
end

