-- ==== Sys2Proof/Machine/Instances.lean ====
section
/-! DEFINITION. Several engines side by side (60_exceptions.md R252): `NUM_INSTANCES` and `INSTANCE_SELECT` are the named
parameters of 92_eei_decisions.md D17. Each engine has its own state and its own command port (assumption log 14).
That the free values of two engines at one draw count are equal is the model's choice (assumption log 19). -/

namespace Sys2Proof.Machine

/-- All the engines of a platform, `NUM_INSTANCES` of them, which is 1 or more (00_scope.md R7, 60_exceptions.md R252). -/
abbrev Platform (n : Config.NumInstances) := Vector State n.count

/-- A step of the platform: the engine at `instanceSelect` steps, on its own state alone (60_exceptions.md R252). That
a reset in a run reaches this one engine, and no other, is the model's choice: 70_reset_and_hazards.md R270 and R252, which
speaks of commands, are silent on it (DESIGN CHOICE, unsafe, assumption log 20). -/
def stepInstance {n : Config.NumInstances} (instanceSelect : Fin n.count) (p : Platform n) :
    Host.Outcome (Platform n) Fault Refusal :=
  match step p[instanceSelect] with
  | .next t => .next (p.set instanceSelect t)
  | .fault r => .fault r
  | .refused r => .refused r

/-- Every engine right after reset. -/
def resetPlatform (n : Config.NumInstances) : Platform n := Vector.replicate n.count State.reset

end Sys2Proof.Machine
end

