-- ==== Sys2Proof/Safety.lean ====
section
/-! DEFINITION. What claims are stated in: the invariant of the engine, what a host can observe, runs of commands, and the
digest of a message written from 40_buffer.md R123 and 20_memory.md R63 without the machine. -/

namespace Sys2Proof.Machine

/-! ## The outcome of a command -/

/-- The next state of a step, if it has one. -/
def nextState? (r : Result) : Option State :=
  match r with
  | .next s => some s
  | .fault _ => none
  | .refused _ => none

/-- The state after a failed command: the response carries the code and data 0, ERR is 1, ERRCODE keeps the first code, and
nothing else is written (60_exceptions.md R241). -/
def erred (code : BitVec 2) (s : State) : State :=
  { s with
    engine :=
      { s.engine with
        err := true
        errcode := if s.engine.err = true then s.engine.errcode else code }
    rsp := some ⟨code, 0⟩ }

/-- The state after a command that changes nothing in the engine and answers `data` (30_encoding.md R92). -/
def answered (data : Word) (s : State) : State := { s with rsp := some ⟨0, data⟩ }

/-! ## The invariant -/

/-- 10_state.md R25: between commands FILL is 0..63. -/
abbrev FillAtRest (e : Engine) : Prop := e.fill.toNat < 64

/-- 10_state.md R28, 60_exceptions.md R240 and R241: ERRCODE is 0 while ERR is 0 and an error's code while ERR is 1; code 3
is never produced. -/
abbrev ErrcodeMatchesErr (e : Engine) : Prop :=
  (e.err = false → e.errcode = 0) ∧ (e.err = true → e.errcode = 1 ∨ e.errcode = 2)

/-- 70_reset_and_hazards.md R270: in UNINIT the registers reset gives a value still hold it. -/
abbrev UninitIsFresh (e : Engine) : Prop :=
  e.ls = .uninit → e.alg = .sha1 ∧ e.fill = 0 ∧ e.len = 0 ∧ e.lovf = false

/-- 40_buffer.md R123 and R126: in READY the buffer holds the bytes of the message after its last whole block. -/
abbrev ReadyFillCountsMessage (e : Engine) : Prop := e.ls = .ready → e.fill.toNat = e.len.toNat % 64

/-- 43_hasher_commands.md R207: in FINAL the buffer is empty. -/
abbrev FinalFillIsZero (e : Engine) : Prop := e.ls = .final → e.fill = 0

/-- 10_state.md R27: while LOVF is 0 the message's bit length fits the suffix. -/
abbrev LovfBoundsLength (e : Engine) : Prop := e.lovf = false → e.len.toNat < 2 ^ 61

/-- 10_state.md R23, 40_buffer.md R122: under SHA-1, H[5..7] stay the zeros INIT wrote. -/
abbrev InactiveWordsZero (e : Engine) : Prop :=
  e.ls ≠ .uninit → e.alg = .sha1 → e.h[5] = 0 ∧ e.h[6] = 0 ∧ e.h[7] = 0

/-- The invariant of the engine between commands. -/
structure Engine.Inv (e : Engine) : Prop where
  fill : FillAtRest e
  errcode : ErrcodeMatchesErr e
  uninit : UninitIsFresh e
  ready : ReadyFillCountsMessage e
  final : FinalFillIsZero e
  lovf : LovfBoundsLength e
  inactive : InactiveWordsZero e

/-! ## What a host can observe -/

/-- Two engines that differ at most in what the spec calls unobservable: H before the first INIT (10_state.md R23), the
bytes of BUF from FILL on (R24, 40_buffer.md R125), V, W and T (R31, R32), and the model's own draw counter. -/
structure Engine.SameObservable (e f : Engine) : Prop where
  ls : e.ls = f.ls
  alg : e.alg = f.alg
  h : e.ls ≠ .uninit → e.h = f.h
  buf : ∀ i, i < e.fill.toNat → bufByte e.buf i = bufByte f.buf i
  fill : e.fill = f.fill
  len : e.len = f.len
  lovf : e.lovf = f.lovf
  err : e.err = f.err
  errcode : e.errcode = f.errcode

/-- Two machines a host cannot tell apart: the same inputs to come, the same last response, the same observable engine. -/
structure SameToHost (s t : State) : Prop where
  engine : s.engine.SameObservable t.engine
  inputs : s.inputs = t.inputs
  rsp : s.rsp = t.rsp

/-- Two outcomes a host cannot tell apart. -/
def OutcomesSameToHost (r q : Result) : Prop :=
  match r, q with
  | .next s, .next t => SameToHost s t
  | .fault a, .fault b => a = b
  | .refused a, .refused b => a = b
  | _, _ => False

/-! ## Runs of commands -/

/-- Commands performed in issue order, to the first stop (20_memory.md R71). -/
def execAll : List Instr → State → Result
  | [], s => .next s
  | i :: is, s =>
    match exec i s with
    | .next t => execAll is t
    | .fault r => .fault r
    | .refused r => .refused r

/-- The responses of commands performed in issue order (30_encoding.md R92), to the first stop. -/
def responses : List Instr → State → List (Option Response)
  | [], _ => []
  | i :: is, s =>
    match exec i s with
    | .next t => t.rsp :: responses is t
    | .fault _ => []
    | .refused _ => []

/-- The commands of 43_hasher_commands.md R213 that may stand between UPDATEs without changing the message. -/
def isInterleavable : Instr → Bool
  | .nop => true
  | .init _ => false
  | .update _ => false
  | .finalize => false
  | .rddig _ => false
  | .rdstat => true
  | .rdlen _ => true

/-- The message bytes a command adds. -/
def messageBytes : Instr → List Byte
  | .nop => []
  | .init _ => []
  | .update b => [b]
  | .finalize => []
  | .rddig _ => []
  | .rdstat => []
  | .rdlen _ => []

/-- A command that may stand between INIT and FINALIZE in 43_hasher_commands.md R213. -/
abbrev isMessageCommand (i : Instr) : Prop := isInterleavable i = true ∨ ∃ b, i = .update b

/-! ## The digest of a message, without the machine -/

/-- The number of zero bytes in the padding of a message of `n` bytes (43_hasher_commands.md R205). -/
def zeroCount (n : Nat) : Nat := (119 - n % 64) % 64

/-- The big-endian bytes of a 64-bit number (20_memory.md R63). -/
def bigEndian64 (x : BitVec 64) : List Byte :=
  [x.extractLsb' 56 8, x.extractLsb' 48 8, x.extractLsb' 40 8, x.extractLsb' 32 8,
   x.extractLsb' 24 8, x.extractLsb' 16 8, x.extractLsb' 8 8, x.extractLsb' 0 8]

/-- The padded message: the message, 0x80, the zero bytes and the bit length modulo 2^64 (40_buffer.md R123,
43_hasher_commands.md R205 and R206). -/
def paddedMessage (m : List Byte) : List Byte :=
  m ++ 0x80 :: List.replicate (zeroCount m.length) 0 ++ bigEndian64 (BitVec.ofNat 64 (8 * m.length))

/-- Bytes `64k .. 64k+63` (40_buffer.md R123). -/
def blockAt (p : List Byte) (k : Nat) : Vector Byte 64 := Vector.ofFn fun i => p.getD (64 * k + i.val) 0

/-- The hash words after the first `n` blocks (40_buffer.md R123). -/
def hashAfterBlocks (a : Algorithm) (p : List Byte) (n : Nat) : Vector Word 8 :=
  (List.range n).foldl (fun h k => compressInto a h (blockWords (blockAt p k))) (initialHash a)

/-- The hash words of a whole message: every block of the padded message compressed in order (40_buffer.md R123). -/
def messageHash (a : Algorithm) (m : List Byte) : Vector Word 8 :=
  hashAfterBlocks a (paddedMessage m) ((paddedMessage m).length / 64)

end Sys2Proof.Machine
end

