-- ==== Sys2Proof/WellFormed.lean ====
section
/-! DEFINITION. Which commands name only defined operand values whatever the engine's state. The field widths are in the
types; the one further check is INIT's ALG (30_encoding.md R94). RDDIG's IDX depends on the ALG register (R97), so it is
no matter of syntax. An ill-formed command still decodes and runs: it raises IllegalCommand (R104). -/

namespace Sys2Proof

/-- 30_encoding.md R94: ALG 0 and 1 are legal, 2..15 are reserved. -/
def Instr.wellFormed : Instr → Bool
  | .nop => true
  | .init alg => alg.toNat < 2
  | .update _ => true
  | .finalize => true
  | .rddig _ => true
  | .rdstat => true
  | .rdlen _ => true

/-- The commands that name only defined operand values. -/
abbrev WellFormed (i : Instr) : Prop := i.wellFormed = true

end Sys2Proof
end

