-- ==== Sys2Proof/Certificates/Slice0/Obligations.lean ====
section
/-! DEFINITION. The statements for the provers. Each docstring names the rules of spec/ it formalises. -/

open Sys2Proof Sys2Proof.Machine

/-! ## Encoding and decoding -/

/-- 30_encoding.md R93 and R106: decoding the word of any command, with every operand at every value its field admits, gives
the command back. -/
def Obligations.DecodeInvertsEncode : Prop :=
  ∀ i : Instr, decode (encode i) = .ok i

/-- 30_encoding.md R93 and R105: a word that decodes is the word of the command it decodes to, so no command has two words. -/
def Obligations.EncodeInvertsDecode : Prop :=
  ∀ (w : Word) (i : Instr), decode w = .ok i → encode i = w

/-- 30_encoding.md R106: the decoder is total, every word matches exactly one row of R93 or is illegal under R102 (OP 7 to
15) or R103 (a reserved bit), the rows are pairwise disjoint, and the operand of a word that decodes is its low field, read as
an unsigned number (R94, R95, R97, R99, R101). -/
def Obligations.DecoderFollowsOpcodeMap : Prop :=
  ∀ w : Word,
    (∀ r ∈ opcodeTable, ∀ q ∈ opcodeTable, r.Matches w → q.Matches w → r = q) ∧
    (∀ r ∈ opcodeTable, r.Matches w → ∃ i, decode w = .ok i ∧ i.mnemonic = r.mnemonic) ∧
    (∀ i, decode w = .ok i → ∃ r ∈ opcodeTable, r.Matches w ∧ r.mnemonic = i.mnemonic) ∧
    ((∀ r ∈ opcodeTable, ¬ r.Matches w) →
      (7 ≤ w.toNat / 2 ^ 28 ∧ decode w = .error (.reservedOpcode (w.extractLsb' 28 4))) ∨
      (w.toNat / 2 ^ 28 < 7 ∧ decode w = .error (.reservedBits (w.extractLsb' 28 4)))) ∧
    (∀ a, decode w = .ok (.init a) → a.toNat = w.toNat % 16) ∧
    (∀ b, decode w = .ok (.update b) → b.toNat = w.toNat % 256) ∧
    (∀ i, decode w = .ok (.rddig i) → i.toNat = w.toNat % 8) ∧
    (∀ h, decode w = .ok (.rdlen h) → h.toNat = w.toNat % 2)

/-- Words written out from 30_encoding.md R93 and R107 decode to the commands they stand for; the reserved words of R103
decode to none. A sanity statement. -/
def Obligations.WrittenWordsDecode : Prop :=
  decode 0x00000000 = .ok .nop ∧ decode 0x10000001 = .ok (.init 1) ∧ decode 0x20000061 = .ok (.update 0x61) ∧
  decode 0x30000000 = .ok .finalize ∧ decode 0x40000007 = .ok (.rddig 7) ∧ decode 0x50000000 = .ok .rdstat ∧
  decode 0x60000001 = .ok (.rdlen 1) ∧ decode 0x30000001 = .error (.reservedBits 3) ∧
  decode 0x20000100 = .error (.reservedBits 2) ∧ decode 0x70000000 = .error (.reservedOpcode 7)

/-! ## The step -/

/-- 43_hasher_commands.md R200, 20_memory.md R71: when the next host input is a word that decodes to `i`, the step is `exec i`
on the state with that input taken. -/
def Obligations.StepPerformsDecodedCommand : Prop :=
  ∀ (s : State) (cmd : Word) (rest : List HostInput) (i : Instr),
    s.inputs = .command cmd :: rest → decode cmd = .ok i → step s = exec i { s with inputs := rest }

/-- 60_exceptions.md R254: with no input the engine is idle and holds all its state. That the response is held too is the
model's choice (assumption log 2). -/
def Obligations.IdleStepHoldsState : Prop :=
  ∀ s : State, s.inputs = [] → step s = .next s

/-- 30_encoding.md R102 and R103: a word with OP 7 to 15, or with a defined OP and a nonzero bit in that format's reserved
area, raises IllegalCommand (code 2) and has no other effect. -/
def Obligations.ReservedWordsRaiseIllegalCommand : Prop :=
  ∀ (s : State) (cmd : Word) (rest : List HostInput),
    s.inputs = .command cmd :: rest →
    (7 ≤ cmd.toNat / 2 ^ 28 ∨
     (cmd.toNat / 2 ^ 28 ∈ [0, 3, 5] ∧ cmd.toNat % 2 ^ 28 ≠ 0) ∨
     (cmd.toNat / 2 ^ 28 = 1 ∧ cmd.toNat % 2 ^ 28 / 16 ≠ 0) ∨
     (cmd.toNat / 2 ^ 28 = 2 ∧ cmd.toNat % 2 ^ 28 / 256 ≠ 0) ∨
     (cmd.toNat / 2 ^ 28 = 4 ∧ cmd.toNat % 2 ^ 28 / 8 ≠ 0) ∨
     (cmd.toNat / 2 ^ 28 = 6 ∧ cmd.toNat % 2 ^ 28 / 2 ≠ 0)) →
    step s = .next (erred 2 { s with inputs := rest })

/-! ## The commands -/

/-- 43_hasher_commands.md R201: NOP answers (OK, 0) in every state and changes nothing. -/
def Obligations.NopChangesNothing : Prop :=
  ∀ s : State, exec .nop s = .next (answered 0 s)

/-- 43_hasher_commands.md R202, 41_sha1.md R141, 42_sha256.md R171: INIT with ALG 0 or 1 completes in every state; it loads the
initial hash words (H[5..7] = 0 under SHA-1), clears FILL, LEN and the flags, keeps BUF, and the engine is READY. The equation
also holds V, W and T, which 10_state.md R31 and R32 leave unspecified between commands, and the model's own `draws`: that part of
the frame is the model's choice (DESIGN CHOICE, unsafe, assumption log 6). -/
def Obligations.InitStartsMessage : Prop :=
  ∀ s : State,
    exec (.init 0) s = .next
      { s with
        engine :=
          { s.engine with
            ls := .ready, alg := .sha1, fill := 0, len := 0, lovf := false, err := false, errcode := 0
            h := #v[0x67452301, 0xEFCDAB89, 0x98BADCFE, 0x10325476, 0xC3D2E1F0, 0, 0, 0] }
        rsp := some ⟨0, 0⟩ } ∧
    exec (.init 1) s = .next
      { s with
        engine :=
          { s.engine with
            ls := .ready, alg := .sha256, fill := 0, len := 0, lovf := false, err := false, errcode := 0
            h := #v[0x6a09e667, 0xbb67ae85, 0x3c6ef372, 0xa54ff53a, 0x510e527f, 0x9b05688c, 0x1f83d9ab, 0x5be0cd19] }
        rsp := some ⟨0, 0⟩ }

/-- 30_encoding.md R104: INIT with ALG 2 to 15, the words 0x1000_0002 to 0x1000_000F, raises IllegalCommand, and no state
changes but the error flags (60_exceptions.md R241). -/
def Obligations.InitReservedAlgorithmFails : Prop :=
  (∀ (s : State) (alg : BitVec 4), 2 ≤ alg.toNat → exec (.init alg) s = .next (erred 2 s)) ∧
  (∀ (s : State) (cmd : Word) (rest : List HostInput), s.inputs = .command cmd :: rest →
    0x10000002 ≤ cmd.toNat → cmd.toNat ≤ 0x1000000F → step s = .next (erred 2 { s with inputs := rest }))

/-- 43_hasher_commands.md R203, 40_buffer.md R120: in READY with FILL below 63, UPDATE writes the byte at BUF[FILL], counts it in
FILL and LEN, sets LOVF by 10_state.md R27, and leaves H, ALG, LS, ERR and ERRCODE as they are; no compression runs. The equation
also holds V, W and T, which 10_state.md R31 and R32 leave unspecified between commands, and the model's own `draws`: that part of
the frame is the model's choice (DESIGN CHOICE, unsafe, assumption log 6). -/
def Obligations.UpdateBuffersByte : Prop :=
  ∀ (s : State) (b : Byte), s.engine.ls = .ready → (hf : s.engine.fill.toNat < 63) →
    exec (.update b) s = .next
      { s with
        engine :=
          { s.engine with
            buf := s.engine.buf.set s.engine.fill.toNat b
            fill := s.engine.fill + 1
            len := s.engine.len + 1
            lovf := s.engine.lovf || decide (2 ^ 61 ≤ s.engine.len.toNat + 1) }
        rsp := some ⟨0, 0⟩ }

/-- 43_hasher_commands.md R203, 40_buffer.md R120 and R122: in READY with FILL 63, UPDATE writes BUF[63], compresses the whole
block into H with the algorithm selected (H[5..7] untouched under SHA-1), leaves FILL 0, and counts the byte; LS, ALG, ERR and
ERRCODE are unchanged. -/
def Obligations.UpdateDrainsFullBlock : Prop :=
  ∀ (s : State) (b : Byte), s.engine.ls = .ready → s.engine.fill.toNat = 63 →
    ∃ t : State, exec (.update b) s = .next t ∧
      t.inputs = s.inputs ∧ t.rsp = some ⟨0, 0⟩ ∧
      t.engine.buf = s.engine.buf.set 63 b ∧
      t.engine.fill = 0 ∧ t.engine.len = s.engine.len + 1 ∧
      t.engine.lovf = (s.engine.lovf || decide (2 ^ 61 ≤ s.engine.len.toNat + 1)) ∧
      t.engine.ls = .ready ∧ t.engine.alg = s.engine.alg ∧
      t.engine.err = s.engine.err ∧ t.engine.errcode = s.engine.errcode ∧
      (s.engine.alg = .sha256 → t.engine.h = compress256 s.engine.h (blockWords (s.engine.buf.set 63 b))) ∧
      (s.engine.alg = .sha1 →
        t.engine.h[5] = s.engine.h[5] ∧ t.engine.h[6] = s.engine.h[6] ∧ t.engine.h[7] = s.engine.h[7] ∧
        lowFive t.engine.h = compress1 (lowFive s.engine.h) (blockWords (s.engine.buf.set 63 b)))

/-- 10_state.md R24, 40_buffer.md R120: UPDATE that succeeds writes the byte at BUF[FILL] and no other byte of BUF. -/
def Obligations.UpdateWritesOnlyItsByte : Prop :=
  ∀ (s t : State) (b : Byte), s.engine.ls = .ready → exec (.update b) s = .next t →
    bufByte t.engine.buf s.engine.fill.toNat = b ∧
    ∀ i, i ≠ s.engine.fill.toNat → bufByte t.engine.buf i = bufByte s.engine.buf i

/-- 43_hasher_commands.md R204 to R207: in READY with f = FILL at most 63, FINALIZE completes. Let the tail be BUF[0..f-1],
0x80, z zero bytes (z = 55 - f for f up to 55, 119 - f from 56 on) and the eight big-endian bytes of LEN * 8 modulo 2^64. Then
H has the tail's one block (f up to 55) or two blocks (f from 56 on) compressed into it, BUF holds the last one, FILL is 0, LS
is FINAL, and LEN, ALG, LOVF, ERR and ERRCODE are unchanged. -/
def Obligations.FinalizeCompressesPaddedTail : Prop :=
  ∀ (s : State) (f z : Nat) (tail : List Byte),
    s.engine.ls = .ready → s.engine.fill.toNat = f → f < 64 →
    z = (if f ≤ 55 then 55 - f else 119 - f) →
    tail = s.engine.buf.toList.take f ++ 0x80 :: List.replicate z 0 ++ bigEndian64 (s.engine.len * 8) →
    ∃ t : State, exec .finalize s = .next t ∧
      t.inputs = s.inputs ∧ t.rsp = some ⟨0, 0⟩ ∧
      t.engine.ls = .final ∧ t.engine.fill = 0 ∧ t.engine.len = s.engine.len ∧ t.engine.alg = s.engine.alg ∧
      t.engine.lovf = s.engine.lovf ∧ t.engine.err = s.engine.err ∧ t.engine.errcode = s.engine.errcode ∧
      (f ≤ 55 →
        t.engine.h = compressInto s.engine.alg s.engine.h (blockWords (blockAt tail 0)) ∧
        t.engine.buf = blockAt tail 0) ∧
      (56 ≤ f →
        t.engine.h = compressInto s.engine.alg
          (compressInto s.engine.alg s.engine.h (blockWords (blockAt tail 0))) (blockWords (blockAt tail 1)) ∧
        t.engine.buf = blockAt tail 1)

/-- 43_hasher_commands.md R208: RDDIG raises IllegalCommand when IDX is not below n(ALG), whatever the lifecycle state, then
SequenceError outside FINAL, and else answers (OK, H[IDX]) and changes nothing. -/
def Obligations.RddigReadsDigestWord : Prop :=
  ∀ (s : State) (idx : BitVec 3) (n : Nat),
    n = (if s.engine.alg = .sha1 then 5 else 8) →
    (n ≤ idx.toNat → exec (.rddig idx) s = .next (erred 2 s)) ∧
    (idx.toNat < n → s.engine.ls ≠ .final → exec (.rddig idx) s = .next (erred 1 s)) ∧
    (idx.toNat < n → s.engine.ls = .final → ∀ w, s.engine.h[idx.toNat]? = some w →
      exec (.rddig idx) s = .next (answered w s))

/-- 43_hasher_commands.md R209, 10_state.md R29: RDSTAT completes in every state, changes nothing, and answers the STATUS word,
each field in its place and the reserved bits 0. -/
def Obligations.RdstatReadsStatusFields : Prop :=
  ∀ s : State, ∃ w : Word, exec .rdstat s = .next (answered w s) ∧
    w.extractLsb' 0 2 = (match s.engine.ls with | .uninit => 0 | .ready => 1 | .final => 2) ∧
    w.extractLsb' 2 1 = (match s.engine.alg with | .sha1 => 0 | .sha256 => 1) ∧
    w.extractLsb' 3 1 = (if s.engine.err then 1 else 0) ∧
    w.extractLsb' 4 2 = s.engine.errcode ∧
    w.extractLsb' 6 1 = (if s.engine.lovf then 1 else 0) ∧
    w.extractLsb' 7 1 = 0 ∧
    (w.extractLsb' 8 6).toNat = s.engine.fill.toNat % 64 ∧
    w.extractLsb' 14 18 = 0

/-- 43_hasher_commands.md R210, 30_encoding.md R99, 10_state.md R30: RDLEN completes in every state, changes nothing, and answers
LEN[31:0] for HI = 0 and LEN[63:32] for HI = 1. -/
def Obligations.RdlenReadsLengthHalf : Prop :=
  ∀ s : State, ∃ lo hi : Word,
    exec (.rdlen 0) s = .next (answered lo s) ∧ exec (.rdlen 1) s = .next (answered hi s) ∧
    lo.toNat = s.engine.len.toNat % 2 ^ 32 ∧ hi.toNat = s.engine.len.toNat / 2 ^ 32

/-- 43_hasher_commands.md R200, 60_exceptions.md R242: UPDATE and FINALIZE outside READY, and RDDIG of a legal index outside
FINAL, raise SequenceError (code 1) with no other effect. -/
def Obligations.OutOfSequenceCommandsFail : Prop :=
  ∀ s : State,
    (s.engine.ls ≠ .ready → (∀ b, exec (.update b) s = .next (erred 1 s)) ∧ exec .finalize s = .next (erred 1 s)) ∧
    (s.engine.ls ≠ .final → ∀ idx : BitVec 3, idx.toNat < activeWords s.engine.alg →
      exec (.rddig idx) s = .next (erred 1 s))

/-- 40_buffer.md R120 says ABSORB is never entered with FILL 64. That UPDATE and FINALIZE in READY stop by name where FILL is
above 63 is the model's choice (assumption log 9); no state a run reaches has it. -/
def Obligations.FillBeyondBlockStops : Prop :=
  ∀ s : State, s.engine.ls = .ready → 64 ≤ s.engine.fill.toNat →
    (∀ b, exec (.update b) s = .fault .fillBeyondBlock) ∧ exec .finalize s = .fault .fillBeyondBlock

/-! ## Errors -/

/-- 60_exceptions.md R242: a command answers SequenceError exactly where it is UPDATE or FINALIZE outside READY, or RDDIG of a
legal index outside FINAL, and then with data 0. -/
def Obligations.SequenceErrorExactCases : Prop :=
  ∀ (i : Instr) (s t : State), exec i s = .next t →
    ((∃ d, t.rsp = some ⟨1, d⟩) ↔
      ((∃ b, i = .update b) ∧ s.engine.ls ≠ .ready) ∨ (i = .finalize ∧ s.engine.ls ≠ .ready) ∨
      (∃ idx, i = .rddig idx ∧ idx.toNat < activeWords s.engine.alg ∧ s.engine.ls ≠ .final)) ∧
    (∀ d, t.rsp = some ⟨1, d⟩ → d = 0)

/-- 60_exceptions.md R243: a command word answers IllegalCommand exactly where its OP is 7 to 15, a reserved bit of its format
is set, it is INIT with ALG 2 to 15, or RDDIG with IDX not below n(ALG), and then with data 0. -/
def Obligations.IllegalCommandExactCases : Prop :=
  ∀ (cmd : Word) (rest : List HostInput) (s t : State),
    s.inputs = .command cmd :: rest → step s = .next t →
    ((∃ d, t.rsp = some ⟨2, d⟩) ↔
      (∀ r ∈ opcodeTable, ¬ r.Matches cmd) ∨
      (cmd.toNat / 2 ^ 28 = 1 ∧ 2 ≤ cmd.toNat % 16) ∨
      (cmd.toNat / 2 ^ 28 = 4 ∧ activeWords s.engine.alg ≤ cmd.toNat % 8)) ∧
    (∀ d, t.rsp = some ⟨2, d⟩ → d = 0)

/-- 60_exceptions.md R244: one command raises at most one error, and the first check that fails decides it: encoding, then
operand value, then lifecycle state. From a state with FILL at most 63 every command word is answered, with code 2, 2, 1 or, if
no check fails, 0. -/
def Obligations.FirstFailedCheckDecidesError : Prop :=
  ∀ (s : State) (cmd : Word) (rest : List HostInput) (op : Nat),
    s.inputs = .command cmd :: rest → s.engine.fill.toNat < 64 → op = cmd.toNat / 2 ^ 28 →
    ∃ (t : State) (r : Response), step s = .next t ∧ t.rsp = some r ∧
      r.err =
        (if ∀ q ∈ opcodeTable, ¬ q.Matches cmd then 2
         else if (op = 1 ∧ 2 ≤ cmd.toNat % 16) ∨ (op = 4 ∧ activeWords s.engine.alg ≤ cmd.toNat % 8) then 2
         else if ((op = 2 ∨ op = 3) ∧ s.engine.ls ≠ .ready) ∨ (op = 4 ∧ s.engine.ls ≠ .final) then 1
         else 0)

/-- 60_exceptions.md R241: a command word that does not answer OK writes nothing but ERR, ERRCODE (the first code is kept) and
the response, whose data is 0; LS, ALG, H, BUF, FILL, LEN, LOVF and the hidden registers are unchanged. -/
def Obligations.FailedCommandWritesOnlyErrorFlags : Prop :=
  ∀ (cmd : Word) (rest : List HostInput) (s t : State) (r : Response),
    s.inputs = .command cmd :: rest → step s = .next t → t.rsp = some r → r.err ≠ 0 →
    (r.err = 1 ∨ r.err = 2) ∧ t = erred r.err { s with inputs := rest }

/-- 30_encoding.md R92: every command word that is performed is answered; RSP_ERR is never 3, and RSP_DATA is 0 unless a read
command succeeded. -/
def Obligations.ResponseIsWellFormed : Prop :=
  ∀ (cmd : Word) (rest : List HostInput) (s t : State),
    s.inputs = .command cmd :: rest → step s = .next t →
    ∃ r, t.rsp = some r ∧ r.err ≠ 3 ∧
      (r.data ≠ 0 → r.err = 0 ∧ cmd.toNat / 2 ^ 28 ∈ [4, 5, 6])

/-- 60_exceptions.md R248, 10_state.md R28: ERR goes from 1 to 0 only by a successful INIT or by reset. -/
def Obligations.ErrorFlagClearedOnlyByInitOrReset : Prop :=
  ∀ (s t : State) (x : HostInput) (rest : List HostInput),
    s.inputs = x :: rest → step s = .next t → s.engine.err = true → t.engine.err = false →
    x = .command 0x10000000 ∨ x = .command 0x10000001 ∨ x = .reset ∨ ∃ cmd, x = .resetDuring cmd

/-! ## What each command may change -/

/-- 10_state.md R20: LS is written only by INIT, FINALIZE and reset, and INIT alone leads out of FINAL: a command that changes
LS is INIT to READY, or FINALIZE from READY to FINAL. -/
def Obligations.LifecycleTransitions : Prop :=
  ∀ (i : Instr) (s t : State), exec i s = .next t → t.engine.ls ≠ s.engine.ls →
    (∃ alg, i = .init alg ∧ alg.toNat < 2 ∧ t.engine.ls = .ready) ∨
    (i = .finalize ∧ s.engine.ls = .ready ∧ t.engine.ls = .final)

/-- 10_state.md R23, 40_buffer.md R120: a command that changes H is a successful INIT, an UPDATE in READY that fills the block,
or a FINALIZE in READY. -/
def Obligations.HashWrittenOnlyByInitAndBlocks : Prop :=
  ∀ (i : Instr) (s t : State), exec i s = .next t → t.engine.h ≠ s.engine.h →
    (∃ alg, i = .init alg ∧ alg.toNat < 2) ∨
    (∃ b, i = .update b ∧ s.engine.ls = .ready ∧ s.engine.fill.toNat = 63) ∨
    (i = .finalize ∧ s.engine.ls = .ready)

/-- 10_state.md R22, R26, 40_buffer.md R126: ALG changes only by a successful INIT; LEN changes only by a successful INIT, to 0, or
by an UPDATE in READY, by 1 modulo 2^64. -/
def Obligations.AlgorithmAndLengthWriters : Prop :=
  ∀ (i : Instr) (s t : State), exec i s = .next t →
    (t.engine.alg ≠ s.engine.alg → ∃ alg, i = .init alg ∧ alg.toNat < 2) ∧
    (t.engine.len ≠ s.engine.len →
      (∃ alg, i = .init alg ∧ alg.toNat < 2 ∧ t.engine.len = 0) ∨
      (∃ b, i = .update b ∧ s.engine.ls = .ready ∧ t.engine.len.toNat = (s.engine.len.toNat + 1) % 2 ^ 64))

/-- 10_state.md R24: BUF is changed only by an UPDATE or a FINALIZE in READY; INIT and every other command leave every byte. -/
def Obligations.BufferWrittenOnlyByAbsorb : Prop :=
  ∀ (i : Instr) (s t : State), exec i s = .next t →
    ((∃ b, i = .update b) ∨ i = .finalize) ∧ s.engine.ls = .ready ∨
    ∀ k, bufByte t.engine.buf k = bufByte s.engine.buf k

/-- 20_memory.md R69: NOP, RDSTAT, RDLEN and RDDIG that succeed write nothing but the response, and the same command performed
from any state whose engine is the same succeeds with the same data, however often and whatever reads stand between. -/
def Obligations.ReadsAreIdempotent : Prop :=
  ∀ (i : Instr) (s t : State), isInterleavable i = true ∨ (∃ idx, i = .rddig idx) →
    exec i s = .next t → (∃ d, t.rsp = some ⟨0, d⟩) →
    t = { s with rsp := t.rsp } ∧
    ∀ u : State, u.engine = s.engine → exec i u = .next { u with rsp := t.rsp }

/-! ## Reset -/

/-- 70_reset_and_hazards.md R270: State.reset has the values RESET gives, and STATUS reads 0. The zeros of H, BUF, V, W and T are
the model's (assumption log 3 to 5) and are not part of this statement. -/
def Obligations.ResetValues : Prop :=
  State.reset.engine.ls = .uninit ∧ State.reset.engine.alg = .sha1 ∧ State.reset.engine.fill = 0 ∧
  State.reset.engine.len = 0 ∧ State.reset.engine.lovf = false ∧ State.reset.engine.err = false ∧
  State.reset.engine.errcode = 0 ∧ exec .rdstat State.reset = .next (answered 0 State.reset)

/-- 70_reset_and_hazards.md R270 and R272: a reset, between commands or during one, leaves the defined state at its reset values
whatever the state before, abandons the command without a response, and leaves the host's later inputs. That no response is held
after a reset between two commands either is the model's choice (assumption log 2). -/
def Obligations.ResetEventRestoresResetValues : Prop :=
  ∀ (s : State) (x : HostInput) (rest : List HostInput),
    s.inputs = x :: rest → (x = .reset ∨ ∃ cmd, x = .resetDuring cmd) →
    ∃ t : State, step s = .next t ∧ t.inputs = rest ∧ t.rsp = none ∧
      t.engine.ls = .uninit ∧ t.engine.alg = .sha1 ∧ t.engine.fill = 0 ∧ t.engine.len = 0 ∧
      t.engine.lovf = false ∧ t.engine.err = false ∧ t.engine.errcode = 0

/-! ## Whole-machine claims -/

/-- The invariant of the engine holds at reset (its rules: 10_state.md R23, R25, R27, R28; 43_hasher_commands.md R207). -/
def Obligations.EngineInvariantAtReset : Prop :=
  State.reset.engine.Inv

/-- Every step, a command's, a reset's or an idle one, keeps the invariant of the engine: FILL at most 63 and equal to LEN modulo
64 in READY and 0 in FINAL, ERRCODE 0 exactly while ERR is 0 and never 3, LEN below 2^61 while LOVF is 0, H[5..7] zero under
SHA-1, UNINIT fresh (10_state.md R23, R25, R27, R28; 43_hasher_commands.md R207). -/
def Obligations.StepKeepsEngineInvariant : Prop :=
  ∀ s t : State, s.engine.Inv → step s = .next t → t.engine.Inv

/-- 70_reset_and_hazards.md R271: every input is accepted in every lifecycle state: from a state of the invariant a step always
answers a next state, and no error blocks the engine. -/
def Obligations.EveryInputIsAccepted : Prop :=
  ∀ s : State, s.engine.Inv → ∃ t, step s = .next t ∧ t.engine.Inv ∧ t.inputs = s.inputs.tail

/-- 70_reset_and_hazards.md R270, 40_buffer.md R125, 10_state.md R23, R24, R31: what the spec calls unspecified cannot be observed.
From two states that differ only in H before the first INIT, in the bytes of BUF from FILL on, or in V, W and T, a step gives
outcomes a host cannot tell apart, the response included. -/
def Obligations.UnspecifiedStateIsUnobservable : Prop :=
  ∀ s t : State, SameToHost s t → OutcomesSameToHost (step s) (step t)

/-- 43_hasher_commands.md R212: after a successful INIT nothing from before it can be observed: from any two states, INIT and
then any commands at all are answered alike. -/
def Obligations.InitForgetsThePast : Prop :=
  ∀ (s t : State) (alg : BitVec 4) (is : List Instr), alg.toNat < 2 →
    responses (.init alg :: is) s = responses (.init alg :: is) t

/-- 43_hasher_commands.md R213, 40_buffer.md R123: INIT, the UPDATEs of a message with any NOP, RDSTAT and RDLEN between them, and
FINALIZE complete from every state and leave in H every block of the padded message compressed in order, so the same H however
they are interleaved. From 2^61 bytes on that H is the engine's own result and no SHA digest (R206). -/
def Obligations.MessageDigestIgnoresInterleaving : Prop :=
  ∀ (s : State) (a : Algorithm) (is : List Instr) (m : List Byte),
    (∀ i ∈ is, isMessageCommand i) → is.flatMap messageBytes = m →
    ∃ t, execAll (.init (algOperand a) :: is ++ [.finalize]) s = .next t ∧
      t.engine.ls = .final ∧ t.engine.alg = a ∧ t.engine.h = messageHash a m ∧
      t.engine.len = BitVec.ofNat 64 m.length

/-- 43_hasher_commands.md R211, 20_memory.md R64: in FINAL, RDDIG 0 to n(ALG)-1 answer the digest words in order, and these words,
each serialized big-endian, are the digest bytes. -/
def Obligations.RddigSequenceReturnsDigest : Prop :=
  ∀ s : State, s.engine.ls = .final →
    ∃ ws : List Word, ws.length = activeWords s.engine.alg ∧
      responses (rddigAllOf s.engine.alg) s = ws.map (fun w => some ⟨0, w⟩) ∧
      (ws.flatMap fun w => [w.extractLsb' 24 8, w.extractLsb' 16 8, w.extractLsb' 8 8, w.extractLsb' 0 8]) =
        digestBytes s.engine.alg s.engine.h

/-- 30_encoding.md R108: HASH expands to INIT, one UPDATE for each byte, FINALIZE and the RDDIGs of the algorithm; performed from
any state, its last answers are the digest words of the message (from 2^61 bytes on the engine's own result,
43_hasher_commands.md R206). -/
def Obligations.HashPseudoCommandReturnsDigest : Prop :=
  ∀ (s : State) (last : Option Algorithm) (a : Algorithm) (m : List Byte),
    assembleStmt last (.hash a (m.map BitVec.toNat)) =
      some (.init (algOperand a) :: m.map Instr.update ++ [.finalize] ++ rddigAllOf a) ∧
    (responses (.init (algOperand a) :: m.map Instr.update ++ [.finalize] ++ rddigAllOf a) s).drop (m.length + 2) =
      ((messageHash a m).toList.take (activeWords a)).map fun w => some ⟨0, w⟩

/-! ## The compressions -/

/-- 41_sha1.md R143 and R144: the SHA-1 schedule has 80 words, the first 16 are the block's, and each later one is ROTL^1 of the
xor of the words 3, 8, 14 and 16 before it. -/
def Obligations.Sha1ScheduleRecurrence : Prop :=
  ∀ m : Vector Word 16, ∃ w : Nat → Word,
    schedule1 m 64 = (List.range 80).map w ∧
    (∀ t (h : t < 16), w t = m[t]) ∧
    ∀ t, 16 ≤ t → t ≤ 79 → w t = rotl 1 (w (t - 3) ^^^ w (t - 8) ^^^ w (t - 14) ^^^ w (t - 16))

/-- 42_sha256.md R175 and R176: the SHA-256 schedule has 64 words, the first 16 are the block's, and each later one is the sum of
σ1 of the word 2 before, the word 7 before, σ0 of the word 15 before, and the word 16 before. -/
def Obligations.Sha256ScheduleRecurrence : Prop :=
  ∀ m : Vector Word 16, ∃ w : Nat → Word,
    schedule256 m 48 = (List.range 64).map w ∧
    (∀ t (h : t < 16), w t = m[t]) ∧
    ∀ t, 16 ≤ t → t ≤ 63 →
      w t = smallSigma1 (w (t - 2)) + w (t - 7) + smallSigma0 (w (t - 15)) + w (t - 16)

/-- 41_sha1.md R140, R145, R146 and R150: COMPRESS1 runs ROUND1(0) to ROUND1(79) from Hin, with the constant of each round's
range and the schedule's word, and adds the working variables back into Hin modulo 2^32. -/
def Obligations.Sha1RoundsAndAddBack : Prop :=
  ∀ (hin : Vector Word 5) (m : Vector Word 16), ∃ w a b c d e : Nat → Word,
    schedule1 m 64 = (List.range 80).map w ∧
    (a 0 = hin[0] ∧ b 0 = hin[1] ∧ c 0 = hin[2] ∧ d 0 = hin[3] ∧ e 0 = hin[4]) ∧
    (∀ t, t ≤ 79 →
      a (t + 1) = rotl 5 (a t) + roundFn1 t (b t) (c t) (d t) + e t +
        (if t ≤ 19 then 0x5A827999 else if t ≤ 39 then 0x6ED9EBA1 else if t ≤ 59 then 0x8F1BBCDC else 0xCA62C1D6) + w t ∧
      b (t + 1) = a t ∧ c (t + 1) = rotl 30 (b t) ∧ d (t + 1) = c t ∧ e (t + 1) = d t) ∧
    compress1 hin m = #v[hin[0] + a 80, hin[1] + b 80, hin[2] + c 80, hin[3] + d 80, hin[4] + e 80]

/-- 42_sha256.md R177, R178 and R180: COMPRESS256 runs ROUND256(0) to ROUND256(63) from Hin, with K[t] and the schedule's word,
and adds the working variables back into Hin modulo 2^32. -/
def Obligations.Sha256RoundsAndAddBack : Prop :=
  ∀ (hin : Vector Word 8) (m : Vector Word 16), ∃ w a b c d e f g h : Nat → Word,
    schedule256 m 48 = (List.range 64).map w ∧
    (a 0 = hin[0] ∧ b 0 = hin[1] ∧ c 0 = hin[2] ∧ d 0 = hin[3] ∧
      e 0 = hin[4] ∧ f 0 = hin[5] ∧ g 0 = hin[6] ∧ h 0 = hin[7]) ∧
    (∀ t, t ≤ 63 → ∃ t1 t2,
      t1 = h t + bigSigma1 (e t) + ch (e t) (f t) (g t) + k256 t + w t ∧
      t2 = bigSigma0 (a t) + maj (a t) (b t) (c t) ∧
      a (t + 1) = t1 + t2 ∧ b (t + 1) = a t ∧ c (t + 1) = b t ∧ d (t + 1) = c t ∧
      e (t + 1) = d t + t1 ∧ f (t + 1) = e t ∧ g (t + 1) = f t ∧ h (t + 1) = g t) ∧
    compress256 hin m =
      #v[hin[0] + a 64, hin[1] + b 64, hin[2] + c 64, hin[3] + d 64,
         hin[4] + e 64, hin[5] + f 64, hin[6] + g 64, hin[7] + h 64]

/-- 42_sha256.md R170 and R171, 41_sha1.md R140: K[t] is the first 32 bits of the fractional part of the cube root of the
(t+1)-th prime, word i of the SHA-256 initial value that of the square root of the (i+1)-th prime, and the SHA-1 constants are
the whole parts of 2^30 times the square roots of 2, 3, 5 and 10 (93_implementation_defined.md §2). -/
def Obligations.RomWordsAreRoots : Prop :=
  ∃ primes : List Nat, primes.length = 64 ∧ (∀ n < 312, n.Prime ↔ n ∈ primes) ∧ primes.Pairwise (· < ·) ∧
    (∀ t < 64, ∃ i < 7,
      (i * 2 ^ 32 + (k256 t).toNat) ^ 3 ≤ primes.getD t 0 * 2 ^ 96 ∧
      primes.getD t 0 * 2 ^ 96 < (i * 2 ^ 32 + (k256 t).toNat + 1) ^ 3) ∧
    (∀ t < 8, ∃ i < 5,
      (i * 2 ^ 32 + (romIV256.getD t 0).toNat) ^ 2 ≤ primes.getD t 0 * 2 ^ 64 ∧
      primes.getD t 0 * 2 ^ 64 < (i * 2 ^ 32 + (romIV256.getD t 0).toNat + 1) ^ 2) ∧
    (∀ t < 4, (romK1.getD t 0).toNat ^ 2 ≤ [2, 3, 5, 10].getD t 0 * 2 ^ 60 ∧
      [2, 3, 5, 10].getD t 0 * 2 ^ 60 < ((romK1.getD t 0).toNat + 1) ^ 2)

/-- 41_sha1.md R151 and R152: 80 round steps over V[0..4], the sixteen-word window and T, whatever the registers held before, and
the add-back give COMPRESS1 of H[0..4] and the block. -/
def Obligations.Sha1DatapathComputesCompress1 : Prop :=
  ∀ (h : Vector Word 8) (m : Vector Word 16) (d : Datapath),
    ((d.load1 h m).steps1 80).addBack1 h = compress1 (lowFive h) m

/-- 42_sha256.md R181 and R182: 64 round steps over V, the sixteen-word window and T and the add-back give COMPRESS256 of H and
the block. -/
def Obligations.Sha256DatapathComputesCompress256 : Prop :=
  ∀ (h : Vector Word 8) (m : Vector Word 16),
    ((Datapath.load256 h m).steps256 64).addBack256 h = compress256 h m

/-- 41_sha1.md R142, 42_sha256.md R172: bit by bit, Ch takes from its second word where the first is 1 and from its third where it
is 0, Maj is the majority, Parity the xor; and SHA-1 uses Ch in rounds 0 to 19, Maj in 40 to 59, Parity elsewhere. -/
def Obligations.RoundFunctionsBitwise : Prop :=
  ∀ (x y z : Word) (t : Nat),
    (∀ k < 32, (ch x y z).getLsbD k = if x.getLsbD k then y.getLsbD k else z.getLsbD k) ∧
    (∀ k < 32, (maj x y z).getLsbD k =
      decide (2 ≤ (x.getLsbD k).toNat + (y.getLsbD k).toNat + (z.getLsbD k).toNat)) ∧
    (∀ k < 32, (parity x y z).getLsbD k =
      decide (((x.getLsbD k).toNat + (y.getLsbD k).toNat + (z.getLsbD k).toNat) % 2 = 1)) ∧
    (t ≤ 19 → roundFn1 t x y z = ch x y z) ∧
    (20 ≤ t → t ≤ 39 → roundFn1 t x y z = parity x y z) ∧
    (40 ≤ t → t ≤ 59 → roundFn1 t x y z = maj x y z) ∧
    (60 ≤ t → t ≤ 79 → roundFn1 t x y z = parity x y z)

/-- 00_scope.md R9 and R10: ROTL^n and ROTR^n move every bit n places round, and SHR^n moves zeros in, for 1 to 31. -/
def Obligations.RotationsMoveBits : Prop :=
  ∀ (x : Word) (n k : Nat), 1 ≤ n → n ≤ 31 → k < 32 →
    (rotl n x).getLsbD ((k + n) % 32) = x.getLsbD k ∧
    (rotr n x).getLsbD k = x.getLsbD ((k + n) % 32) ∧
    (shr n x).getLsbD k = (decide (k + n < 32) && x.getLsbD (k + n))

/-! ## Byte order -/

/-- 20_memory.md R66: byte i of BUF is seen as bits [31 - 8*(i mod 4) : 24 - 8*(i mod 4)] of block word i div 4. -/
def Obligations.BlockWordsAreBigEndian : Prop :=
  ∀ (buf : Vector Byte 64) (i : Nat) (hi : i < 64),
    ((blockWords buf)[i / 4]'(by omega)).extractLsb' (24 - 8 * (i % 4)) 8 = buf[i]

/-- 20_memory.md R63, 43_hasher_commands.md R206: the suffix is the eight bytes of (LEN * 8) modulo 2^64, most significant first, and
below 2^61 bytes it is the message length in bits exactly. -/
def Obligations.SuffixIsBigEndianBitLength : Prop :=
  ∀ len : BitVec 64,
    suffixBytes (bitLength len) = bigEndian64 (bitLength len) ∧
    ((suffixBytes (bitLength len)).foldl (fun n b => 256 * n + b.toNat) 0) = 8 * len.toNat % 2 ^ 64 ∧
    (len.toNat < 2 ^ 61 → (bitLength len).toNat = 8 * len.toNat)

/-! ## Several engines -/

/-- 60_exceptions.md R252, 00_scope.md R7: with any number of engines, 1 or more, a step of one engine of a platform leaves
every other engine as it is, and is that engine's own step on its own state alone. For a step that is a reset this is the
model's choice, the spec being silent on how many engines a reset reaches (DESIGN CHOICE, unsafe, assumption log 20). -/
def Obligations.EnginesAreIndependent : Prop :=
  ∀ (n : Config.NumInstances) (k : Fin n.count) (p q : Platform n),
    stepInstance k p = .next q →
    step p[k] = .next q[k] ∧ ∀ j : Fin n.count, j ≠ k → q[j] = p[j]

/-! ## The assembler -/

/-- 30_encoding.md R107: each form assembles to the word of the table, and an operand outside the listed range is refused and not
truncated. -/
def Obligations.AssemblerWordsAndRanges : Prop :=
  ∀ (last : Option Algorithm) (n : Nat),
    assemble last [.nop] = some [0x00000000] ∧ assemble last [.finalize] = some [0x30000000] ∧
    assemble last [.rdstat] = some [0x50000000] ∧
    assemble last [.rdlen false] = some [0x60000000] ∧ assemble last [.rdlen true] = some [0x60000001] ∧
    assemble last [.initAlg .sha1] = some [0x10000000] ∧ assemble last [.initAlg .sha256] = some [0x10000001] ∧
    assemble last [.initNum n] = (if n ≤ 15 then some [BitVec.ofNat 32 (0x10000000 + n)] else none) ∧
    assemble last [.update n] = (if n ≤ 255 then some [BitVec.ofNat 32 (0x20000000 + n)] else none) ∧
    assemble last [.rddig n] = (if n ≤ 7 then some [BitVec.ofNat 32 (0x40000000 + n)] else none)
end

