-- ==== Sys2Proof/Laws/Decode.lean ====
section
/-! SUPPORT. What the decoder's fields are as numbers, the decoder as a case analysis on them, and what a word that decodes
is (30_encoding.md R91, R93, R106). -/

namespace Sys2Proof

/-- A field of a word as a number. -/
theorem toNat_extractLsb'_word (w : Word) (s n : Nat) : (w.extractLsb' s n).toNat = w.toNat / 2 ^ s % 2 ^ n := by
  simp [BitVec.extractLsb'_toNat, Nat.shiftRight_eq_div_pow]

/-- `OP` as a number. -/
theorem opcodeOf_toNat (w : Word) : (opcodeOf w).toNat = w.toNat / 2 ^ 28 := by
  have := w.isLt
  rw [opcodeOf, toNat_extractLsb'_word]
  omega

/-- The reserved area is zero exactly when the word's low 28 bits are an operand. -/
theorem reservedClear_iff {lo : Nat} (h : lo ≤ 28) (w : Word) :
    reservedClear lo w = true ↔ w.toNat % 2 ^ 28 / 2 ^ lo = 0 := by
  have h28 : (2 : Nat) ^ 28 = 2 ^ lo * 2 ^ (28 - lo) := by rw [← pow_add]; congr 1; omega
  have hv : w.toNat / 2 ^ lo % 2 ^ (28 - lo) = w.toNat % 2 ^ 28 / 2 ^ lo := by
    rw [h28, Nat.mod_mul_right_div_self]
  unfold reservedClear
  rw [beq_iff_eq, ← BitVec.toNat_inj, toNat_extractLsb'_word]
  simp [hv]

/-- The decoder by the value of `OP` and of the reserved area. -/
theorem decode_by_fields (w : Word) : decode w =
    (if w.toNat / 2 ^ 28 = 0 then
      if w.toNat % 2 ^ 28 = 0 then .ok .nop else .error (.reservedBits (opcodeOf w))
    else if w.toNat / 2 ^ 28 = 1 then
      if w.toNat % 2 ^ 28 / 2 ^ 4 = 0 then .ok (.init (w.extractLsb' 0 4)) else .error (.reservedBits (opcodeOf w))
    else if w.toNat / 2 ^ 28 = 2 then
      if w.toNat % 2 ^ 28 / 2 ^ 8 = 0 then .ok (.update (w.extractLsb' 0 8)) else .error (.reservedBits (opcodeOf w))
    else if w.toNat / 2 ^ 28 = 3 then
      if w.toNat % 2 ^ 28 = 0 then .ok .finalize else .error (.reservedBits (opcodeOf w))
    else if w.toNat / 2 ^ 28 = 4 then
      if w.toNat % 2 ^ 28 / 2 ^ 3 = 0 then .ok (.rddig (w.extractLsb' 0 3)) else .error (.reservedBits (opcodeOf w))
    else if w.toNat / 2 ^ 28 = 5 then
      if w.toNat % 2 ^ 28 = 0 then .ok .rdstat else .error (.reservedBits (opcodeOf w))
    else if w.toNat / 2 ^ 28 = 6 then
      if w.toNat % 2 ^ 28 / 2 ^ 1 = 0 then .ok (.rdlen (w.extractLsb' 0 1)) else .error (.reservedBits (opcodeOf w))
    else .error (.reservedOpcode (opcodeOf w))) := by
  have r0 := reservedClear_iff (lo := 0) (by decide) w
  have r1 := reservedClear_iff (lo := 1) (by decide) w
  have r3 := reservedClear_iff (lo := 3) (by decide) w
  have r4 := reservedClear_iff (lo := 4) (by decide) w
  have r8 := reservedClear_iff (lo := 8) (by decide) w
  rw [pow_zero, Nat.div_one] at r0
  have hw : w.toNat / 2 ^ 28 < 16 := by have := w.isLt; omega
  unfold decode
  rw [opcodeOf_toNat]
  generalize w.toNat / 2 ^ 28 = q at *
  interval_cases q <;> simp [r0, r1, r3, r4, r8]

/-- The word of a command as a number. -/
def wordValue : Instr → Nat
  | .nop => 0
  | .init alg => 0x10000000 + alg.toNat
  | .update byte => 0x20000000 + byte.toNat
  | .finalize => 0x30000000
  | .rddig idx => 0x40000000 + idx.toNat
  | .rdstat => 0x50000000
  | .rdlen hi => 0x60000000 + hi.toNat

/-- What a word that decodes is. -/
theorem decode_eq_ok {w : Word} {i : Instr} (h : decode w = .ok i) : w.toNat = wordValue i := by
  have hw := w.isLt
  rw [decode_by_fields] at h
  split_ifs at h <;> cases h <;> simp only [wordValue, toNat_extractLsb'_word] <;> omega

/-- Masking off the low `k` bits. -/
theorem and_shifted_ones_eq_iff (w v : Word) {k : Nat} (hk : k ≤ 32) :
    w &&& BitVec.allOnes 32 <<< k = v ↔ w.toNat / 2 ^ k * 2 ^ k = v.toNat := by
  have hs : w &&& BitVec.allOnes 32 <<< k = (w >>> k) <<< k := by
    apply BitVec.eq_of_getLsbD_eq
    intro i hi
    simp only [BitVec.getLsbD_and, BitVec.getLsbD_shiftLeft, BitVec.getLsbD_allOnes, BitVec.getLsbD_ushiftRight, hi,
      decide_true, Bool.true_and]
    by_cases h : i < k
    · simp [h]
    · have h2 : k + (i - k) = i := by omega
      have h3 : i - k < 32 := by omega
      simp [h, h2, h3]
  have hd : w.toNat / 2 ^ k * 2 ^ k ≤ w.toNat := Nat.div_mul_le_self _ _
  have := w.isLt
  rw [hs, ← BitVec.toNat_inj, BitVec.toNat_shiftLeft, BitVec.toNat_ushiftRight, Nat.shiftRight_eq_div_pow,
    Nat.shiftLeft_eq, Nat.mod_eq_of_lt (by omega)]

end Sys2Proof
end

