-- ==== Sys2Proof/Laws/State.lean ====
section
/-! SUPPORT. One lemma for each field after each update of the state, so that no proof unfolds a record update. -/

namespace Sys2Proof.Machine

/-! ## `put` (40_buffer.md R120) -/

@[simp] theorem put_ls (e : Engine) (b : Byte) : (e.put b).ls = e.ls := rfl
@[simp] theorem put_alg (e : Engine) (b : Byte) : (e.put b).alg = e.alg := rfl
@[simp] theorem put_h (e : Engine) (b : Byte) : (e.put b).h = e.h := rfl
@[simp] theorem put_buf (e : Engine) (b : Byte) : (e.put b).buf = e.buf.setIfInBounds e.fill.toNat b := rfl
@[simp] theorem put_fill (e : Engine) (b : Byte) : (e.put b).fill = e.fill + 1 := rfl
@[simp] theorem put_len (e : Engine) (b : Byte) : (e.put b).len = e.len := rfl
@[simp] theorem put_lovf (e : Engine) (b : Byte) : (e.put b).lovf = e.lovf := rfl
@[simp] theorem put_err (e : Engine) (b : Byte) : (e.put b).err = e.err := rfl
@[simp] theorem put_errcode (e : Engine) (b : Byte) : (e.put b).errcode = e.errcode := rfl
@[simp] theorem put_dp (e : Engine) (b : Byte) : (e.put b).dp = e.dp := rfl
@[simp] theorem put_draws (e : Engine) (b : Byte) : (e.put b).draws = e.draws := rfl

/-! ## `drain` (40_buffer.md R122) -/

@[simp] theorem drain_ls (e : Engine) : (e.drain).ls = e.ls := rfl
@[simp] theorem drain_alg (e : Engine) : (e.drain).alg = e.alg := rfl
@[simp] theorem drain_h (e : Engine) : (e.drain).h = compressInto e.alg e.h (blockWords e.buf) := rfl
@[simp] theorem drain_buf (e : Engine) : (e.drain).buf = e.buf := rfl
@[simp] theorem drain_fill (e : Engine) : (e.drain).fill = e.fill := rfl
@[simp] theorem drain_len (e : Engine) : (e.drain).len = e.len := rfl
@[simp] theorem drain_lovf (e : Engine) : (e.drain).lovf = e.lovf := rfl
@[simp] theorem drain_err (e : Engine) : (e.drain).err = e.err := rfl
@[simp] theorem drain_errcode (e : Engine) : (e.drain).errcode = e.errcode := rfl
@[simp] theorem drain_dp (e : Engine) : (e.drain).dp = freeDatapath e.draws := rfl
@[simp] theorem drain_draws (e : Engine) : (e.drain).draws = e.draws + 1 := rfl

/-! ## `clearErrors` (60_exceptions.md R248) -/

@[simp] theorem clearErrors_ls (e : Engine) : (e.clearErrors).ls = e.ls := rfl
@[simp] theorem clearErrors_alg (e : Engine) : (e.clearErrors).alg = e.alg := rfl
@[simp] theorem clearErrors_h (e : Engine) : (e.clearErrors).h = e.h := rfl
@[simp] theorem clearErrors_buf (e : Engine) : (e.clearErrors).buf = e.buf := rfl
@[simp] theorem clearErrors_fill (e : Engine) : (e.clearErrors).fill = e.fill := rfl
@[simp] theorem clearErrors_len (e : Engine) : (e.clearErrors).len = e.len := rfl
@[simp] theorem clearErrors_lovf (e : Engine) : (e.clearErrors).lovf = e.lovf := rfl
@[simp] theorem clearErrors_err (e : Engine) : (e.clearErrors).err = false := rfl
@[simp] theorem clearErrors_errcode (e : Engine) : (e.clearErrors).errcode = 0 := rfl
@[simp] theorem clearErrors_dp (e : Engine) : (e.clearErrors).dp = e.dp := rfl
@[simp] theorem clearErrors_draws (e : Engine) : (e.clearErrors).draws = e.draws := rfl

/-! ## `startMessage` (43_hasher_commands.md R202) -/

@[simp] theorem startMessage_ls (e : Engine) (a : Algorithm) : (e.startMessage a).ls = .ready := rfl
@[simp] theorem startMessage_alg (e : Engine) (a : Algorithm) : (e.startMessage a).alg = a := rfl
@[simp] theorem startMessage_h (e : Engine) (a : Algorithm) : (e.startMessage a).h = initialHash a := rfl
@[simp] theorem startMessage_buf (e : Engine) (a : Algorithm) : (e.startMessage a).buf = e.buf := rfl
@[simp] theorem startMessage_fill (e : Engine) (a : Algorithm) : (e.startMessage a).fill = 0 := rfl
@[simp] theorem startMessage_len (e : Engine) (a : Algorithm) : (e.startMessage a).len = 0 := rfl
@[simp] theorem startMessage_lovf (e : Engine) (a : Algorithm) : (e.startMessage a).lovf = false := rfl
@[simp] theorem startMessage_err (e : Engine) (a : Algorithm) : (e.startMessage a).err = false := rfl
@[simp] theorem startMessage_errcode (e : Engine) (a : Algorithm) : (e.startMessage a).errcode = 0 := rfl
@[simp] theorem startMessage_dp (e : Engine) (a : Algorithm) : (e.startMessage a).dp = e.dp := rfl
@[simp] theorem startMessage_draws (e : Engine) (a : Algorithm) : (e.startMessage a).draws = e.draws := rfl

/-! ## `raise` (60_exceptions.md R241) -/

@[simp] theorem raise_ls (k : ErrorKind) (s : State) : (raise k s).engine.ls = s.engine.ls := rfl
@[simp] theorem raise_alg (k : ErrorKind) (s : State) : (raise k s).engine.alg = s.engine.alg := rfl
@[simp] theorem raise_h (k : ErrorKind) (s : State) : (raise k s).engine.h = s.engine.h := rfl
@[simp] theorem raise_buf (k : ErrorKind) (s : State) : (raise k s).engine.buf = s.engine.buf := rfl
@[simp] theorem raise_fill (k : ErrorKind) (s : State) : (raise k s).engine.fill = s.engine.fill := rfl
@[simp] theorem raise_len (k : ErrorKind) (s : State) : (raise k s).engine.len = s.engine.len := rfl
@[simp] theorem raise_lovf (k : ErrorKind) (s : State) : (raise k s).engine.lovf = s.engine.lovf := rfl
@[simp] theorem raise_err (k : ErrorKind) (s : State) : (raise k s).engine.err = true := rfl
@[simp] theorem raise_errcode (k : ErrorKind) (s : State) : (raise k s).engine.errcode = capturedCode s.engine.err s.engine.errcode k := rfl
@[simp] theorem raise_dp (k : ErrorKind) (s : State) : (raise k s).engine.dp = s.engine.dp := rfl
@[simp] theorem raise_draws (k : ErrorKind) (s : State) : (raise k s).engine.draws = s.engine.draws := rfl
@[simp] theorem raise_inputs (k : ErrorKind) (s : State) : (raise k s).inputs = s.inputs := rfl
@[simp] theorem raise_rsp (k : ErrorKind) (s : State) : (raise k s).rsp = some ⟨k.code, 0⟩ := rfl

/-! ## `respondOk` and `complete` (30_encoding.md R92) -/

@[simp] theorem respondOk_engine (d : Word) (s : State) : (respondOk d s).engine = s.engine := rfl
@[simp] theorem respondOk_inputs (d : Word) (s : State) : (respondOk d s).inputs = s.inputs := rfl
@[simp] theorem respondOk_rsp (d : Word) (s : State) : (respondOk d s).rsp = some ⟨0, d⟩ := rfl
@[simp] theorem complete_engine (e : Engine) (s : State) : (complete e s).engine = e := rfl
@[simp] theorem complete_inputs (e : Engine) (s : State) : (complete e s).inputs = s.inputs := rfl
@[simp] theorem complete_rsp (e : Engine) (s : State) : (complete e s).rsp = some ⟨0, 0⟩ := rfl

/-! ## `resetEvent` (70_reset_and_hazards.md R270) -/

@[simp] theorem resetEvent_ls (s : State) : (resetEvent s).engine.ls = .uninit := rfl
@[simp] theorem resetEvent_alg (s : State) : (resetEvent s).engine.alg = .sha1 := rfl
@[simp] theorem resetEvent_h (s : State) : (resetEvent s).engine.h = Config.freeH s.engine.draws := rfl
@[simp] theorem resetEvent_buf (s : State) : (resetEvent s).engine.buf = Config.freeBuf s.engine.draws := rfl
@[simp] theorem resetEvent_fill (s : State) : (resetEvent s).engine.fill = 0 := rfl
@[simp] theorem resetEvent_len (s : State) : (resetEvent s).engine.len = 0 := rfl
@[simp] theorem resetEvent_lovf (s : State) : (resetEvent s).engine.lovf = false := rfl
@[simp] theorem resetEvent_err (s : State) : (resetEvent s).engine.err = false := rfl
@[simp] theorem resetEvent_errcode (s : State) : (resetEvent s).engine.errcode = 0 := rfl
@[simp] theorem resetEvent_dp (s : State) : (resetEvent s).engine.dp = freeDatapath s.engine.draws := rfl
@[simp] theorem resetEvent_draws (s : State) : (resetEvent s).engine.draws = s.engine.draws + 1 := rfl
@[simp] theorem resetEvent_inputs (s : State) : (resetEvent s).inputs = s.inputs := rfl
@[simp] theorem resetEvent_rsp (s : State) : (resetEvent s).rsp = none := rfl

/-! ## `present` (30_encoding.md R90) -/

@[simp] theorem present_engine (c : Word) (s : State) : (present c s).engine = s.engine := rfl
@[simp] theorem present_inputs (c : Word) (s : State) : (present c s).inputs = .command c :: s.inputs := rfl
@[simp] theorem present_rsp (c : Word) (s : State) : (present c s).rsp = s.rsp := rfl

end Sys2Proof.Machine
end

