-- ==== Sys2Proof/Laws/Ops.lean ====
section
/-! SUPPORT. One lemma for each shared operation that says what it does: raising an error, the checks, the buffer
operations, the padding, and the answer of every command. -/

namespace Sys2Proof.Machine

/-! ## The checks (43_hasher_commands.md R200) -/

theorem checked_of_operand_illegal {i : Instr} {s : State} {f : State → Result}
    (h : operandLegal i s.engine.alg = false) : checked i s f = .next (raise .illegalCommand s) := by
  simp [checked, h]

theorem checked_of_out_of_sequence {i : Instr} {s : State} {f : State → Result}
    (h : operandLegal i s.engine.alg = true) (hl : lifecycleLegal i s.engine.ls = false) :
    checked i s f = .next (raise .sequenceError s) := by
  simp [checked, h, hl]

theorem checked_of_legal {i : Instr} {s : State} {f : State → Result}
    (h : operandLegal i s.engine.alg = true) (hl : lifecycleLegal i s.engine.ls = true) : checked i s f = f s := by
  simp [checked, h, hl]

/-- Everything `checked` can do when it answers a next state. -/
theorem checked_next_cases {i : Instr} {s t : State} {f : State → Result} (h : checked i s f = .next t) :
    (operandLegal i s.engine.alg = false ∧ t = raise .illegalCommand s) ∨
    (operandLegal i s.engine.alg = true ∧ lifecycleLegal i s.engine.ls = false ∧ t = raise .sequenceError s) ∨
    (operandLegal i s.engine.alg = true ∧ lifecycleLegal i s.engine.ls = true ∧ f s = .next t) := by
  unfold checked at h
  split_ifs at h with h1 h2
  · exact .inl ⟨h1, by simpa using h.symm⟩
  · exact .inr (.inl ⟨by simpa using h1, h2, by simpa using h.symm⟩)
  · exact .inr (.inr ⟨by simpa using h1, by simpa using h2, h⟩)

theorem whereFillFits_next {s t : State} {r : Result} (h : whereFillFits s r = .next t) :
    s.engine.fill.toNat < 64 ∧ r = .next t := by
  unfold whereFillFits at h
  split_ifs at h with h1
  exact ⟨h1, h⟩

/-! ## The commands -/

/-- What a command does once its checks have passed. -/
def Performed (i : Instr) (s t : State) : Prop :=
  match i with
  | .nop => t = respondOk 0 s
  | .init alg => t = complete (s.engine.startMessage (algorithmOf alg)) s
  | .update byte => s.engine.fill.toNat < 64 ∧ t = complete (s.engine.updateByte byte) s
  | .finalize => s.engine.fill.toNat < 64 ∧ t = complete s.engine.finish s
  | .rddig idx => t = respondOk (hashWord s.engine.h idx) s
  | .rdstat => t = respondOk (statusWord s.engine) s
  | .rdlen hi => t = respondOk (lenView hi s.engine.len) s

/-- Everything a command can do when it answers a next state. -/
theorem exec_next_cases {i : Instr} {s t : State} (h : exec i s = .next t) :
    (operandLegal i s.engine.alg = false ∧ t = raise .illegalCommand s) ∨
    (operandLegal i s.engine.alg = true ∧ lifecycleLegal i s.engine.ls = false ∧ t = raise .sequenceError s) ∨
    (operandLegal i s.engine.alg = true ∧ lifecycleLegal i s.engine.ls = true ∧ Performed i s t) := by
  cases i <;>
    simp only [exec, execNop, execInit, execUpdate, execFinalize, execRddig, execRdstat, execRdlen] at h <;>
    rcases checked_next_cases h with h | h | ⟨h1, h2, h3⟩ <;>
    first | exact .inl h | exact .inr (.inl h) | refine .inr (.inr ⟨h1, h2, ?_⟩)
  all_goals
    first
    | exact (Host.Outcome.next.inj h3).symm
    | exact ⟨(whereFillFits_next h3).1, (Host.Outcome.next.inj (whereFillFits_next h3).2).symm⟩

/-- A command that passed its checks answers OK. -/
theorem Performed.rsp_ok {i : Instr} {s t : State} (h : Performed i s t) : ∃ d, t.rsp = some ⟨0, d⟩ := by
  cases i <;> simp [Performed] at h <;> (first | subst h | obtain ⟨-, rfl⟩ := h) <;> exact ⟨_, rfl⟩

theorem exec_update_of_ready {s : State} (b : Byte) (h : s.engine.ls = .ready) (hf : s.engine.fill.toNat < 64) :
    exec (.update b) s = .next (complete (s.engine.updateByte b) s) := by
  rw [exec, execUpdate, checked_of_legal rfl (by simp [lifecycleLegal, h])]
  simp [whereFillFits, hf]

theorem exec_finalize_of_ready {s : State} (h : s.engine.ls = .ready) (hf : s.engine.fill.toNat < 64) :
    exec .finalize s = .next (complete s.engine.finish s) := by
  rw [exec, execFinalize, checked_of_legal rfl (by simp [lifecycleLegal, h])]
  simp [whereFillFits, hf]

/-- Where FILL is at most 63 every command answers a next state. -/
theorem exec_total (i : Instr) (s : State) (h : s.engine.fill.toNat < 64) :
    ∃ t, exec i s = .next t ∧ t.inputs = s.inputs := by
  have hc : ∀ f : State → Result, (∃ t, f s = .next t ∧ t.inputs = s.inputs) →
      ∃ t, checked i s f = .next t ∧ t.inputs = s.inputs := by
    intro f hf
    unfold checked
    split
    · exact ⟨_, rfl, rfl⟩
    · split
      · exact ⟨_, rfl, rfl⟩
      · exact hf
  cases i <;> apply hc <;> first | exact ⟨_, rfl, rfl⟩ | exact ⟨_, if_pos h, rfl⟩

theorem step_command {s : State} {cmd : Word} {rest : List HostInput} (h : s.inputs = .command cmd :: rest) :
    step s = performWord cmd { s with inputs := rest } := by
  simp [step, turn, h, takeInput]

/-- Everything a command word can do when it answers a next state. -/
theorem performWord_next_cases {cmd : Word} {s t : State} (h : performWord cmd s = .next t) :
    (∃ e, decode cmd = .error e ∧ t = raise .illegalCommand s) ∨ ∃ i, decode cmd = .ok i ∧ exec i s = .next t := by
  unfold performWord at h
  split at h
  · exact .inl ⟨_, ‹_›, by simpa using h.symm⟩
  · exact .inr ⟨_, ‹_›, h⟩

/-! ## ABSORB and DRAIN (40_buffer.md R120, R122) -/

theorem bufByte_setIfInBounds (buf : Vector Byte 64) (k i : Nat) (b : Byte) :
    bufByte (buf.setIfInBounds k b) i = if i = k ∧ k < 64 then b else bufByte buf i := by
  simp only [bufByte, Vector.getD]
  by_cases hi : i < 64
  · simp only [eq_comm (a := i)]
    split_ifs <;> simp_all
  · have : ¬ (i = k ∧ k < 64) := by omega
    simp [hi, this]

theorem bufByte_ext {x y : Vector Byte 64} (h : ∀ i, i < 64 → bufByte x i = bufByte y i) : x = y := by
  ext i hi
  have := h i hi
  simp [bufByte, Vector.getD, hi] at this
  simp [this]

theorem put_fill_eq_64_iff (e : Engine) (b : Byte) (h : e.fill.toNat < 64) :
    (e.put b).fill = 64 ↔ e.fill.toNat = 63 := by
  rw [put_fill, ← BitVec.toNat_inj, BitVec.toNat_add]
  simp
  omega

/-- ABSORB while the block is not yet full. -/
theorem absorb_of_fill_lt (e : Engine) (b : Byte) (h : e.fill.toNat < 63) : e.absorb b = e.put b := by
  unfold Engine.absorb
  rw [if_neg]
  rw [put_fill_eq_64_iff e b (by omega)]
  omega

/-- ABSORB of the block's last byte. -/
theorem absorb_of_fill_eq (e : Engine) (b : Byte) (h : e.fill.toNat = 63) :
    e.absorb b = { (e.put b).drain with fill := 0 } := by
  unfold Engine.absorb
  rw [if_pos]
  rw [put_fill_eq_64_iff e b (by omega)]
  omega

theorem absorb_fill (e : Engine) (b : Byte) (h : e.fill.toNat < 64) :
    (e.absorb b).fill.toNat = (e.fill.toNat + 1) % 64 := by
  by_cases h3 : e.fill.toNat = 63
  · rw [absorb_of_fill_eq e b h3, h3]; rfl
  · rw [absorb_of_fill_lt e b (by omega), put_fill, BitVec.toNat_add]; simp; omega

theorem absorb_fill_lt (e : Engine) (b : Byte) (h : e.fill.toNat < 64) : (e.absorb b).fill.toNat < 64 := by
  rw [absorb_fill e b h]; omega

@[simp] theorem absorb_buf (e : Engine) (b : Byte) : (e.absorb b).buf = e.buf.setIfInBounds e.fill.toNat b := by
  unfold Engine.absorb; split <;> rfl

@[simp] theorem absorb_ls (e : Engine) (b : Byte) : (e.absorb b).ls = e.ls := by unfold Engine.absorb; split <;> rfl

@[simp] theorem absorb_alg (e : Engine) (b : Byte) : (e.absorb b).alg = e.alg := by unfold Engine.absorb; split <;> rfl

@[simp] theorem absorb_len (e : Engine) (b : Byte) : (e.absorb b).len = e.len := by unfold Engine.absorb; split <;> rfl

@[simp] theorem absorb_lovf (e : Engine) (b : Byte) : (e.absorb b).lovf = e.lovf := by
  unfold Engine.absorb; split <;> rfl

@[simp] theorem absorb_err (e : Engine) (b : Byte) : (e.absorb b).err = e.err := by unfold Engine.absorb; split <;> rfl

@[simp] theorem absorb_errcode (e : Engine) (b : Byte) : (e.absorb b).errcode = e.errcode := by
  unfold Engine.absorb; split <;> rfl

/-- Two engines with the same registers but H, BUF, FILL and the hidden ones. -/
structure SameControl (e f : Engine) : Prop where
  ls : e.ls = f.ls
  alg : e.alg = f.alg
  len : e.len = f.len
  lovf : e.lovf = f.lovf
  err : e.err = f.err
  errcode : e.errcode = f.errcode

theorem SameControl.andThen {e f g : Engine} (h : SameControl e f) (k : SameControl f g) : SameControl e g :=
  ⟨h.ls.trans k.ls, h.alg.trans k.alg, h.len.trans k.len, h.lovf.trans k.lovf, h.err.trans k.err,
    h.errcode.trans k.errcode⟩

theorem absorb_control (e : Engine) (b : Byte) : SameControl (e.absorb b) e :=
  ⟨by simp, by simp, by simp, by simp, by simp, by simp⟩

theorem absorbAll_cons (e : Engine) (b : Byte) (bs : List Byte) :
    e.absorbAll (b :: bs) = (e.absorb b).absorbAll bs := rfl

theorem absorbAll_append (e : Engine) (xs ys : List Byte) :
    e.absorbAll (xs ++ ys) = (e.absorbAll xs).absorbAll ys := by
  simp [Engine.absorbAll]

theorem absorbAll_control (bs : List Byte) : ∀ e : Engine, SameControl (e.absorbAll bs) e := by
  induction bs with
  | nil => intro e; exact ⟨rfl, rfl, rfl, rfl, rfl, rfl⟩
  | cons b bs ih => intro e; exact (ih (e.absorb b)).andThen (absorb_control e b)

theorem absorbAll_fill (bs : List Byte) :
    ∀ e : Engine, e.fill.toNat < 64 → (e.absorbAll bs).fill.toNat = (e.fill.toNat + bs.length) % 64 := by
  induction bs with
  | nil => intro e h; simp [Engine.absorbAll]; omega
  | cons b bs ih =>
    intro e h
    rw [absorbAll_cons, ih _ (absorb_fill_lt e b h), absorb_fill e b h]
    simp
    omega

@[simp] theorem lowFive_setLowFive (x : Vector Word 5) (v : Vector Word 8) : lowFive (setLowFive x v) = x := by
  ext i hi
  interval_cases i <;> rfl

@[simp] theorem setLowFive_5 (x : Vector Word 5) (v : Vector Word 8) : (setLowFive x v)[5] = v[5] := rfl

@[simp] theorem setLowFive_6 (x : Vector Word 5) (v : Vector Word 8) : (setLowFive x v)[6] = v[6] := rfl

@[simp] theorem setLowFive_7 (x : Vector Word 5) (v : Vector Word 8) : (setLowFive x v)[7] = v[7] := rfl

/-- Under SHA-1 a block leaves H[5..7] alone. -/
theorem absorb_high_words (e : Engine) (b : Byte) (h : e.alg = .sha1) :
    (e.absorb b).h[5] = e.h[5] ∧ (e.absorb b).h[6] = e.h[6] ∧ (e.absorb b).h[7] = e.h[7] := by
  unfold Engine.absorb
  split
  · simp [compressInto, h]
  · exact ⟨rfl, rfl, rfl⟩

theorem absorbAll_high_words (bs : List Byte) : ∀ e : Engine, e.alg = .sha1 →
    (e.absorbAll bs).h[5] = e.h[5] ∧ (e.absorbAll bs).h[6] = e.h[6] ∧ (e.absorbAll bs).h[7] = e.h[7] := by
  induction bs with
  | nil => intro e _; exact ⟨rfl, rfl, rfl⟩
  | cons b bs ih =>
    intro e h
    obtain ⟨h5, h6, h7⟩ := ih (e.absorb b) (by simpa using h)
    obtain ⟨k5, k6, k7⟩ := absorb_high_words e b h
    exact ⟨h5.trans k5, h6.trans k6, h7.trans k7⟩

/-! ## UPDATE on the engine (43_hasher_commands.md R203) -/

theorem updateByte_control (b : Byte) (e : Engine) :
    (e.updateByte b).ls = e.ls ∧ (e.updateByte b).alg = e.alg ∧ (e.updateByte b).len = e.len + 1 ∧
    (e.updateByte b).lovf = lovfAfterUpdate e.lovf e.len ∧ (e.updateByte b).err = e.err ∧
    (e.updateByte b).errcode = e.errcode := by
  simp [Engine.updateByte]

theorem updateByte_fill (b : Byte) (e : Engine) (h : e.fill.toNat < 64) :
    (e.updateByte b).fill.toNat = (e.fill.toNat + 1) % 64 := absorb_fill _ _ h

theorem updateByte_buf (b : Byte) (e : Engine) :
    (e.updateByte b).buf = e.buf.setIfInBounds e.fill.toNat b := absorb_buf _ _

/-! ## FINALIZE on the engine (43_hasher_commands.md R204 to R207) -/

/-- The bytes FINALIZE absorbs: the marker, the zeros and the length suffix. -/
def padBytes (fill : Nat) (len : BitVec 64) : List Byte :=
  0x80 :: List.replicate ((119 - fill) % 64) 0 ++ suffixBytes (bitLength len)

theorem padBytes_length (fill : Nat) (len : BitVec 64) : (padBytes fill len).length = (119 - fill) % 64 + 9 := by
  simp [padBytes, suffixBytes]

theorem fill_eq_56_iff (e : Engine) : e.fill = 56 ↔ e.fill.toNat = 56 := by
  rw [← BitVec.toNat_inj]; rfl

/-- The zero loop runs to its end: with fuel enough it absorbs exactly the zeros that are missing. -/
theorem padZeros_eq_absorbAll (n : Nat) : ∀ e : Engine, e.fill.toNat < 64 → (120 - e.fill.toNat) % 64 ≤ n →
    Engine.padZeros n e = e.absorbAll (List.replicate ((120 - e.fill.toNat) % 64) 0) := by
  induction n with
  | zero =>
    intro e h hn
    have : (120 - e.fill.toNat) % 64 = 0 := by omega
    rw [this]; rfl
  | succ n ih =>
    intro e h hn
    unfold Engine.padZeros
    by_cases h56 : e.fill.toNat = 56
    · rw [if_pos ((fill_eq_56_iff e).2 h56), h56]; rfl
    · have hf := absorb_fill e 0 h
      have hz : (120 - e.fill.toNat) % 64 = (120 - (e.fill.toNat + 1) % 64) % 64 + 1 := by omega
      rw [if_neg (by rwa [fill_eq_56_iff]), ih _ (absorb_fill_lt e 0 h) (by rw [hf]; omega), hf, hz,
        List.replicate_succ, absorbAll_cons]

theorem finish_eq_absorbAll (e : Engine) (h : e.fill.toNat < 64) :
    e.finish = { e.absorbAll (padBytes e.fill.toNat e.len) with ls := .final } := by
  have hz : (120 - (e.fill.toNat + 1) % 64) % 64 = (119 - e.fill.toNat) % 64 := by omega
  unfold Engine.finish Engine.padMessage padBytes
  rw [padZeros_eq_absorbAll 64 _ (absorb_fill_lt e _ h) (by omega), absorb_fill e _ h, hz, List.cons_append,
    absorbAll_cons, absorbAll_append]

theorem finish_fill (e : Engine) (h : e.fill.toNat < 64) : e.finish.fill = 0 := by
  rw [finish_eq_absorbAll e h, ← BitVec.toNat_inj]
  show (Engine.absorbAll _ _).fill.toNat = 0
  rw [absorbAll_fill _ _ h, padBytes_length]
  omega

theorem finish_control (e : Engine) (h : e.fill.toNat < 64) :
    e.finish.ls = .final ∧ e.finish.alg = e.alg ∧ e.finish.len = e.len ∧ e.finish.lovf = e.lovf ∧
    e.finish.err = e.err ∧ e.finish.errcode = e.errcode := by
  rw [finish_eq_absorbAll e h]
  obtain ⟨-, ha, hl, ho, he, hc⟩ := absorbAll_control (padBytes e.fill.toNat e.len) e
  exact ⟨rfl, ha, hl, ho, he, hc⟩

/-! ## The datapath window (41_sha1.md R151, 42_sha256.md R181) -/

/-- Reading the window after a write to it. -/
theorem slot_setSlot (w : Vector Word 16) (k j : Nat) (x : Word) :
    slot (setSlot w k x) j = if j % 16 = k % 16 then x else slot w j := by
  simp only [slot, setSlot, Vector.getElem_set, eq_comm (a := k % 16)]

/-! ## The schedules -/

theorem schedule1_length (m : Vector Word 16) (n : Nat) : (schedule1 m n).length = 16 + n := by
  induction n with
  | zero => simp [schedule1]
  | succ n ih => simp [schedule1, ih]; omega

theorem schedule256_length (m : Vector Word 16) (n : Nat) : (schedule256 m n).length = 16 + n := by
  induction n with
  | zero => simp [schedule256]
  | succ n ih => simp [schedule256, ih]; omega

end Sys2Proof.Machine
end

