-- ==== Sys2Proof/Laws/PerInstr.lean ====
section
/-! SUPPORT. The family `TableRow`: the word of every command, with every operand its field admits, belongs to its own row of
30_encoding.md R93. -/

namespace Sys2Proof.Laws.TableRow

/-- The command's word belongs to the opcode-table row of its mnemonic. -/
def Statement (i : Instr) : Prop := ∃ r ∈ opcodeTable, r.mnemonic = i.mnemonic ∧ r.Matches (encode i)

theorem nop : Statement .nop := ⟨⟨"NOP", 0x0000_0000, 0xFFFF_FFFF⟩, by decide, rfl, rfl⟩

theorem init (alg : BitVec 4) : Statement (.init alg) :=
  ⟨⟨"INIT", 0x1000_0000, 0xFFFF_FFF0⟩, by decide, rfl, by revert alg; decide⟩

theorem update (byte : Byte) : Statement (.update byte) :=
  ⟨⟨"UPDATE", 0x2000_0000, 0xFFFF_FF00⟩, by decide, rfl, by revert byte; decide +kernel⟩

theorem finalize : Statement .finalize := ⟨⟨"FINALIZE", 0x3000_0000, 0xFFFF_FFFF⟩, by decide, rfl, rfl⟩

theorem rddig (idx : BitVec 3) : Statement (.rddig idx) :=
  ⟨⟨"RDDIG", 0x4000_0000, 0xFFFF_FFF8⟩, by decide, rfl, by revert idx; decide⟩

theorem rdstat : Statement .rdstat := ⟨⟨"RDSTAT", 0x5000_0000, 0xFFFF_FFFF⟩, by decide, rfl, rfl⟩

theorem rdlen (hi : BitVec 1) : Statement (.rdlen hi) :=
  ⟨⟨"RDLEN", 0x6000_0000, 0xFFFF_FFFE⟩, by decide, rfl, by revert hi; decide⟩

end Sys2Proof.Laws.TableRow
end

