-- ==== Sys2Proof/Tests/Slice0.lean ====
section
/-! SUPPORT. Tests, whose expected values are those of spec/95_test_vectors.md (the section is named at each), and a witness
for each obligation that has hypotheses. -/

namespace Sys2Proof.Tests

open Sys2Proof Sys2Proof.Machine

/-! ## States -/

/-- An engine in READY with `fill` bytes buffered, all `0x61`, of a message of `len` bytes. -/
def readyAt (a : Algorithm) (fill : BitVec 7) (len : BitVec 64) : State :=
  { State.reset with
    engine :=
      { State.reset.engine with
        ls := .ready, alg := a, h := initialHash a, buf := Vector.replicate 64 0x61, fill := fill, len := len } }

/-- An engine in FINAL whose hash words are 1 to 8. -/
def finalOf (a : Algorithm) : State :=
  { State.reset with
    engine := { State.reset.engine with ls := .final, alg := a, h := #v[1, 2, 3, 4, 5, 6, 7, 8] } }

/-- A state with the error flags set. -/
def failedWith (code : BitVec 2) (s : State) : State :=
  { s with engine := { s.engine with err := true, errcode := code } }

/-- The response of an outcome. -/
def responseOf (r : Result) : Option Response := (nextState? r).bind State.rsp

/-- STATUS of an outcome's engine. -/
def statusOf (r : Result) : Option Word := (nextState? r).map fun t => statusWord t.engine

/-- FILL and LEN of an outcome's engine. -/
def countsOf (r : Result) : Option (BitVec 7 × BitVec 64) := (nextState? r).map fun t => (t.engine.fill, t.engine.len)

/-- The hash words of an outcome's engine. -/
def hashOf (r : Result) : Option (Vector Word 8) := (nextState? r).map fun t => t.engine.h

/-! ## Decoding (95 §3; the words are written from 30_encoding.md R93) -/

theorem test_decode_nop : decode 0b0000_0000000000000000000000000000 = .ok .nop := by decide

theorem test_decode_init : decode 0b0001_000000000000000000000000_0001 = .ok (.init 1) := by decide

theorem test_decode_update : decode 0b0010_00000000000000000000_01100001 = .ok (.update 0x61) := by decide

theorem test_decode_finalize : decode 0b0011_0000000000000000000000000000 = .ok .finalize := by decide

theorem test_decode_rddig : decode 0b0100_0000000000000000000000000_100 = .ok (.rddig 4) := by decide

theorem test_decode_rdstat : decode 0b0101_0000000000000000000000000000 = .ok .rdstat := by decide

theorem test_decode_rdlen : decode 0b0110_000000000000000000000000000_1 = .ok (.rdlen 1) := by decide

theorem test_decode_reserved_bits :
    ([0x00000001, 0x10000010, 0x20000100, 0x30000001, 0x40000008, 0x50000001, 0x60000002] : List Word).all
      (fun w => (decode w).toOption = none) = true := by decide

theorem test_decode_reserved_op : decode 0x70000000 = .error (.reservedOpcode 7) ∧
    decode 0xf0000000 = .error (.reservedOpcode 15) := by decide

/-- spec/opcode_table.json, rows RDLEN and INIT, with a word of 32 bits. -/
theorem test_decodeTableWord : decodeTableWord 32 0x60000000 = some (.rdlen 0) ∧
    decodeTableWord 32 0x1000000f = some (.init 15) := by decide

/-! ## Well-formedness (30_encoding.md R94, R104: ALG 2 to 15 are reserved) -/

theorem test_wellFormed_refuses_init_2 : ¬ WellFormed (.init 2) := by decide

theorem test_wellFormed_accepts_init_1 : WellFormed (.init 1) := by decide

/-! ## NOP -/

/-- 95 §3, row 00000000. -/
theorem test_nop_answers_ok : step (State.reset.withFetchWord 32 0x00000000) = .next (answered 0 State.reset) :=
  rfl

/-! ## INIT -/

/-- 95 §4 (STATUS after INIT sha256) and 95 §8.1 (ERR = 1, INIT: the flags are cleared). -/
theorem test_init_sha256_status :
    statusOf (step ((failedWith 1 State.reset).withFetchWord 32 0x10000001)) = some 0x00000005 := by decide

/-- 95 §8.1: ERR = 1, ERRCODE = 1, INIT 2: response (2, 0), ERRCODE stays 1. -/
theorem test_init_2_keeps_first_code :
    responseOf (exec (.init 2) (failedWith 1 State.reset)) = some ⟨2, 0⟩ ∧
    statusOf (exec (.init 2) (failedWith 1 State.reset)) = some 0x00000018 := by decide

/-! ## UPDATE -/

/-- 95 §8.2, rows 1 and 2: LOVF at the bound of LEN. -/
theorem test_update_length_overflow :
    statusOf (exec (.update 0) (readyAt .sha1 0 (BitVec.ofNat 64 (2 ^ 61 - 2)))) = some 0x00000101 ∧
    statusOf (exec (.update 0) (readyAt .sha1 1 (BitVec.ofNat 64 (2 ^ 61 - 1)))) = some 0x00000241 := by decide

/-- 95 §9 P5, step 2: the 64th byte of "a"×64 compresses the block. -/
theorem test_update_drains_block :
    hashOf (exec (.update 0x61) (readyAt .sha256 63 63)) = some #v[0xdf5bb81c, 0xe81e0626, 0xfb45a894, 0x4fd40f31,
      0xb25e6816, 0xd6d499c1, 0xab904929, 0x00635e66] ∧
    countsOf (exec (.update 0x61) (readyAt .sha256 63 63)) = some (0, 64) := by decide +kernel

/-! ## FINALIZE -/

/-- 95 §7.3 PAD-55, SHA-1: one block (90_conflicts.md C2). -/
theorem test_finalize_one_block :
    hashOf (exec .finalize (readyAt .sha1 55 55)) =
      some #v[0xc1c8bbdc, 0x22796e28, 0xc0e15163, 0xd20899b6, 0x5621d65a, 0, 0, 0] := by decide +kernel

/-- 95 §7.3 PAD-56, SHA-256: two blocks. -/
theorem test_finalize_two_blocks :
    hashOf (exec .finalize (readyAt .sha256 56 56)) = some #v[0xb35439a4, 0xac6f0948, 0xb6d6f9e3, 0xc6af0f5f,
      0x590ce20f, 0x1bde7090, 0xef797068, 0x6ec6738a] := by decide +kernel

/-! ## RDDIG -/

/-- 95 §3, rows 40000004, 40000005 and 40000007: H[4] under SHA-1 in FINAL, IllegalCommand from 5 on, H[7] under SHA-256. -/
theorem test_rddig_index_bound :
    responseOf (exec (.rddig 4) (finalOf .sha1)) = some ⟨0, 5⟩ ∧
    responseOf (exec (.rddig 5) (finalOf .sha1)) = some ⟨2, 0⟩ ∧
    responseOf (exec (.rddig 7) (finalOf .sha256)) = some ⟨0, 8⟩ := by decide

/-- 95 §3, Priority: RDDIG 5 after reset is IllegalCommand, and STATUS becomes 00000028. -/
theorem test_rddig_priority :
    responseOf (exec (.rddig 5) State.reset) = some ⟨2, 0⟩ ∧
    statusOf (exec (.rddig 5) State.reset) = some 0x00000028 := by decide

/-! ## RDSTAT and RDLEN -/

/-- 95 §4: INIT sha256 and 63 UPDATEs, STATUS 00003f05. -/
theorem test_rdstat_fields : responseOf (exec .rdstat (readyAt .sha256 63 63)) = some ⟨0, 0x00003f05⟩ := by decide

/-- 95 §8.2, row 1: RDLEN lo and hi of 2^61 - 1. -/
theorem test_rdlen_halves :
    responseOf (exec (.rdlen 0) (readyAt .sha1 1 (BitVec.ofNat 64 (2 ^ 61 - 1)))) = some ⟨0, 0xffffffff⟩ ∧
    responseOf (exec (.rdlen 1) (readyAt .sha1 1 (BitVec.ofNat 64 (2 ^ 61 - 1)))) = some ⟨0, 0x1fffffff⟩ := by decide

/-! ## The word functions (95 §2) -/

theorem test_rotations : rotl 30 0x12345678 = 0x048d159e ∧ rotr 1 0x12345678 = 0x091a2b3c ∧
    shr 3 0x12345678 = 0x02468acf := by decide

theorem test_sigmas : bigSigma0 0x12345678 = 0x66146474 ∧ bigSigma1 0x12345678 = 0x3561abda ∧
    smallSigma0 0x12345678 = 0xe7fce6ee ∧ smallSigma1 0x12345678 = 0xa1f78649 := by decide

theorem test_round_functions : ch 0xf0f0f0f0 0xcccccccc 0xaaaaaaaa = 0xcacacaca ∧
    parity 0xf0f0f0f0 0xcccccccc 0xaaaaaaaa = 0x96969696 ∧
    maj 0xf0f0f0f0 0xcccccccc 0xaaaaaaaa = 0xe8e8e8e8 := by decide

/-! ## The compressions (95 §5 and §6) -/

/-- The words of the padded block of "abc", 95 §5.1. -/
def blockOfAbc : Vector Word 16 := #v[0x61626380, 0, 0, 0, 0, 0, 0, 0, 0, 0, 0, 0, 0, 0, 0, 0x00000018]

/-- 95 §5.1, the schedule. -/
theorem test_schedule1 : (schedule1 blockOfAbc 8).drop 16 = [0xc2c4c700, 0x00000000, 0x00000030, 0x85898e01, 0x00000000,
    0x00000060, 0x0b131c03, 0x00000030] := by decide +kernel

/-- 95 §6.1, the schedule. -/
theorem test_schedule256 : (schedule256 blockOfAbc 8).drop 16 = [0x61626380, 0x000f0000, 0x7da86405, 0x600003c6,
    0x3e9d7b78, 0x0183fc00, 0x12dcbfdb, 0xe2e2c38e] := by decide +kernel

/-- 95 §5.1, the working variables after round 0. -/
theorem test_round1 : round1 0 0x61626380 romIV1 =
    #v[0x0116fc33, 0x67452301, 0x7bf36ae2, 0x98badcfe, 0x10325476] := by decide

/-- 95 §6.1, the working variables after round 0. -/
theorem test_round256 : round256 0 0x61626380 romIV256 = #v[0x5d6aebcd, 0x6a09e667, 0xbb67ae85, 0x3c6ef372,
    0xfa2a4622, 0x510e527f, 0x9b05688c, 0x1f83d9ab] := by decide

/-- V3, the corrected digest of "abc" (90_conflicts.md C1). -/
theorem test_compress1_abc : compress1 romIV1 blockOfAbc =
    #v[0xa9993e36, 0x4706816a, 0xba3e2571, 0x7850c26c, 0x9cd0d89d] := by decide +kernel

/-- V4, the digest of "abc". -/
theorem test_compress256_abc : compress256 romIV256 blockOfAbc = #v[0xba7816bf, 0x8f01cfea, 0x414140de, 0x5dae2223,
    0xb00361a3, 0x96177a9c, 0xb410ff61, 0xf20015ad] := by decide +kernel

/-- 95 §5.2: zero hash words, a block of ones. -/
theorem test_compress1_ones : compress1 (Vector.replicate 5 0) (Vector.replicate 16 0xffffffff) =
    #v[0xd21fa547, 0x30867de7, 0x4c374871, 0xc1865e49, 0x1ece2c16] := by decide +kernel

/-- 95 §6.2: zero hash words, a block of ones. -/
theorem test_compress256_ones : compress256 (Vector.replicate 8 0) (Vector.replicate 16 0xffffffff) =
    #v[0x5081b30e, 0xfa9924a2, 0x8412d8aa, 0x28bb0c93, 0xda147a5a, 0xd8e1f92b, 0x5af1210d, 0x57081603] := by
  decide +kernel

/-! ## The length suffix and the digest bytes -/

/-- 95 §7.2, LEN = 2^32 and LEN = 2^61. -/
theorem test_suffixBytes : suffixBytes (bitLength (BitVec.ofNat 64 (2 ^ 32))) = [0, 0, 0, 8, 0, 0, 0, 0] ∧
    suffixBytes (bitLength (BitVec.ofNat 64 (2 ^ 61))) = [0, 0, 0, 0, 0, 0, 0, 0] := by decide

/-- 20_memory.md R64: twenty bytes under SHA-1, each word big-endian. -/
theorem test_digestBytes : digestBytes .sha1 #v[0x01020304, 2, 3, 4, 0x05060708, 0, 0, 0] =
    [1, 2, 3, 4, 0, 0, 0, 2, 0, 0, 0, 3, 0, 0, 0, 4, 5, 6, 7, 8] := by decide

/-! ## The assembler -/

/-- 95 §9 P6: the words of `HASH sha256, "abc"`. -/
theorem test_assemble_hash : assembleLines
      [['H', 'A', 'S', 'H', ' ', 's', 'h', 'a', '2', '5', '6', ',', ' ', '"', 'a', 'b', 'c', '"']] =
    some [0x10000001, 0x20000061, 0x20000062, 0x20000063, 0x30000000, 0x40000000, 0x40000001, 0x40000002, 0x40000003,
      0x40000004, 0x40000005, 0x40000006, 0x40000007] := by decide

/-- 30_encoding.md R107: an operand out of range is refused, not truncated; a comment starts with `;`. -/
theorem test_assemble_range :
    assembleLines [['U', 'P', 'D', 'A', 'T', 'E', ' ', '2', '5', '6']] = none ∧
    assembleLines [['U', 'P', 'D', 'A', 'T', 'E', ' ', '0', 'x', 'f', 'f', ' ', ';', 'x']] = some [0x200000ff] := by
  decide

/-! ## Witnesses: for each obligation with hypotheses, states and operands that meet them, each clause at its bounds -/

/-- The state whose next input is a command word. -/
def given (cmd : Word) (s : State) : State := present cmd s

theorem witness_EncodeInvertsDecode : decode 0x1000000f = .ok (.init 15) ∧ decode 0x40000007 = .ok (.rddig 7) := by decide

theorem witness_DecoderFollowsOpcodeMap :
    (∃ r ∈ opcodeTable, r.Matches 0x200000ff ∧ decode 0x200000ff = .ok (.update 0xff)) ∧
    decode 0x1000000f = .ok (.init 15) ∧ decode 0x40000007 = .ok (.rddig 7) ∧ decode 0x60000001 = .ok (.rdlen 1) ∧
    (∀ r ∈ opcodeTable, ¬ r.Matches 0x70000000) ∧ (∀ r ∈ opcodeTable, ¬ r.Matches 0x60000002) := by decide

theorem witness_StepPerformsDecodedCommand :
    (given 0x50000000 State.reset).inputs = [.command 0x50000000] ∧ decode 0x50000000 = .ok .rdstat := by decide

theorem witness_IdleStepHoldsState : State.reset.inputs = [] := rfl

/-- A word for each clause: OP 7 and 15, and each format's lowest reserved bit. -/
theorem witness_ReservedWordsRaiseIllegalCommand :
    (given 0x70000000 State.reset).inputs = [.command 0x70000000] ∧
    7 ≤ (0x70000000 : Word).toNat / 2 ^ 28 ∧ 7 ≤ (0xffffffff : Word).toNat / 2 ^ 28 ∧
    ((0x00000001 : Word).toNat / 2 ^ 28 ∈ [0, 3, 5] ∧ (0x00000001 : Word).toNat % 2 ^ 28 ≠ 0) ∧
    ((0x30000001 : Word).toNat / 2 ^ 28 ∈ [0, 3, 5] ∧ (0x30000001 : Word).toNat % 2 ^ 28 ≠ 0) ∧
    ((0x50000001 : Word).toNat / 2 ^ 28 ∈ [0, 3, 5] ∧ (0x50000001 : Word).toNat % 2 ^ 28 ≠ 0) ∧
    ((0x10000010 : Word).toNat / 2 ^ 28 = 1 ∧ (0x10000010 : Word).toNat % 2 ^ 28 / 16 ≠ 0) ∧
    ((0x20000100 : Word).toNat / 2 ^ 28 = 2 ∧ (0x20000100 : Word).toNat % 2 ^ 28 / 256 ≠ 0) ∧
    ((0x40000008 : Word).toNat / 2 ^ 28 = 4 ∧ (0x40000008 : Word).toNat % 2 ^ 28 / 8 ≠ 0) ∧
    ((0x60000002 : Word).toNat / 2 ^ 28 = 6 ∧ (0x60000002 : Word).toNat % 2 ^ 28 / 2 ≠ 0) := by decide

theorem witness_InitReservedAlgorithmFails :
    2 ≤ (2 : BitVec 4).toNat ∧ 2 ≤ (15 : BitVec 4).toNat ∧
    (given 0x1000000f State.reset).inputs = [.command 0x1000000f] ∧
    0x10000002 ≤ (0x1000000f : Word).toNat ∧ (0x1000000f : Word).toNat ≤ 0x1000000F := by decide

theorem witness_UpdateBuffersByte :
    ((readyAt .sha1 0 0).engine.ls = .ready ∧ (readyAt .sha1 0 0).engine.fill.toNat < 63) ∧
    ((readyAt .sha256 62 62).engine.ls = .ready ∧ (readyAt .sha256 62 62).engine.fill.toNat < 63) := by decide

theorem witness_UpdateDrainsFullBlock :
    ((readyAt .sha1 63 63).engine.ls = .ready ∧ (readyAt .sha1 63 63).engine.fill.toNat = 63 ∧
      (readyAt .sha1 63 63).engine.alg = .sha1) ∧
    ((readyAt .sha256 63 127).engine.ls = .ready ∧ (readyAt .sha256 63 127).engine.fill.toNat = 63 ∧
      (readyAt .sha256 63 127).engine.alg = .sha256) := by decide

theorem witness_UpdateWritesOnlyItsByte : (readyAt .sha1 63 63).engine.ls = .ready ∧
    ∃ t, exec (.update 0x62) (readyAt .sha1 63 63) = .next t :=
  ⟨rfl, _, exec_update_of_ready 0x62 rfl (by decide)⟩

/-- FILL at 0, 55, 56 and 63, the bounds of the two clauses. -/
theorem witness_FinalizeCompressesPaddedTail :
    (readyAt .sha1 0 0).engine.ls = .ready ∧
    (readyAt .sha1 0 0).engine.fill.toNat = 0 ∧ (55 : Nat) = (if (0 : Nat) ≤ 55 then 55 - 0 else 119 - 0) ∧
    (readyAt .sha1 55 55).engine.fill.toNat = 55 ∧ (0 : Nat) = (if (55 : Nat) ≤ 55 then 55 - 55 else 119 - 55) ∧
    (readyAt .sha1 56 56).engine.fill.toNat = 56 ∧ (63 : Nat) = (if (56 : Nat) ≤ 55 then 55 - 56 else 119 - 56) ∧
    (readyAt .sha1 63 63).engine.fill.toNat = 63 ∧ (56 : Nat) = (if (63 : Nat) ≤ 55 then 55 - 63 else 119 - 63) := by
  decide

/-- IDX at 4, 5 and 7, in FINAL and before it. -/
theorem witness_RddigReadsDigestWord :
    5 = (if (finalOf .sha1).engine.alg = .sha1 then 5 else 8) ∧ 5 ≤ (5 : BitVec 3).toNat ∧ (4 : BitVec 3).toNat < 5 ∧
    (readyAt .sha1 0 0).engine.ls ≠ .final ∧ (finalOf .sha1).engine.ls = .final ∧
    (finalOf .sha1).engine.h[(4 : BitVec 3).toNat]? = some 5 ∧
    8 = (if (finalOf .sha256).engine.alg = .sha1 then 5 else 8) ∧ (7 : BitVec 3).toNat < 8 ∧
    (finalOf .sha256).engine.ls = .final ∧ (finalOf .sha256).engine.h[(7 : BitVec 3).toNat]? = some 8 := by decide

theorem witness_OutOfSequenceCommandsFail :
    State.reset.engine.ls ≠ .ready ∧ (finalOf .sha1).engine.ls ≠ .ready ∧ (readyAt .sha256 0 0).engine.ls ≠ .final ∧
    (7 : BitVec 3).toNat < activeWords (readyAt .sha256 0 0).engine.alg ∧
    State.reset.engine.ls ≠ .final ∧ (4 : BitVec 3).toNat < activeWords State.reset.engine.alg := by decide

theorem witness_FillBeyondBlockStops :
    (readyAt .sha1 64 64).engine.ls = .ready ∧ 64 ≤ (readyAt .sha1 64 64).engine.fill.toNat ∧
    64 ≤ (readyAt .sha1 127 127).engine.fill.toNat := by decide

/-- A command that answers SequenceError, and one that does not. -/
theorem witness_SequenceErrorExactCases :
    (∃ t, exec .finalize State.reset = .next t ∧ t.rsp = some ⟨1, 0⟩) ∧
    (∃ t, exec (.rddig 4) (finalOf .sha1) = .next t ∧ t.rsp = some ⟨0, 5⟩) := ⟨⟨_, rfl, rfl⟩, ⟨_, rfl, rfl⟩⟩

/-- A word that answers IllegalCommand in each of the three ways, and one that does not. -/
theorem witness_IllegalCommandExactCases :
    (∃ t, step (given 0x30000001 State.reset) = .next t ∧ t.rsp = some ⟨2, 0⟩) ∧
    (∃ t, step (given 0x10000002 State.reset) = .next t ∧ t.rsp = some ⟨2, 0⟩) ∧
    (∃ t, step (given 0x40000005 State.reset) = .next t ∧ t.rsp = some ⟨2, 0⟩) ∧
    (∃ t, step (given 0x40000004 State.reset) = .next t ∧ t.rsp = some ⟨1, 0⟩) :=
  ⟨⟨_, rfl, rfl⟩, ⟨_, rfl, rfl⟩, ⟨_, rfl, rfl⟩, ⟨_, rfl, rfl⟩⟩

theorem witness_FirstFailedCheckDecidesError :
    (given 0x40000005 (readyAt .sha1 63 63)).inputs = .command 0x40000005 :: [] ∧
    (given 0x40000005 (readyAt .sha1 63 63)).engine.fill.toNat < 64 ∧ 4 = (0x40000005 : Word).toNat / 2 ^ 28 := by decide

theorem witness_FailedCommandWritesOnlyErrorFlags :
    ∃ t, step (given 0x70000000 (failedWith 1 State.reset)) = .next t ∧ t.rsp = some ⟨2, 0⟩ ∧ (2 : BitVec 2) ≠ 0 :=
  ⟨_, rfl, rfl, by decide⟩

theorem witness_ResponseIsWellFormed : ∃ t, step (given 0x40000004 (finalOf .sha1)) = .next t ∧ t.rsp = some ⟨0, 5⟩ :=
  ⟨_, rfl, rfl⟩

/-- INIT clears ERR, and so does reset. -/
theorem witness_ErrorFlagClearedOnlyByInitOrReset :
    (failedWith 2 State.reset).engine.err = true ∧
    (∃ t, step (given 0x10000001 (failedWith 2 State.reset)) = .next t ∧ t.engine.err = false) ∧
    (∃ t, step { failedWith 2 State.reset with inputs := [.reset] } = .next t ∧ t.engine.err = false) :=
  ⟨rfl, ⟨_, rfl, rfl⟩, ⟨_, rfl, rfl⟩⟩

theorem witness_LifecycleTransitions :
    (∃ t, exec (.init 0) State.reset = .next t ∧ t.engine.ls ≠ State.reset.engine.ls) ∧
    (∃ t, exec .finalize (readyAt .sha1 63 63) = .next t ∧ t.engine.ls ≠ (readyAt .sha1 63 63).engine.ls) :=
  ⟨⟨_, rfl, by decide⟩, ⟨_, exec_finalize_of_ready rfl (by decide), by decide⟩⟩

theorem witness_HashWrittenOnlyByInitAndBlocks :
    (∃ t, exec (.init 0) State.reset = .next t ∧ t.engine.h ≠ State.reset.engine.h) ∧
    (∃ t, exec (.update 0x61) (readyAt .sha1 63 63) = .next t ∧ t.engine.h ≠ (readyAt .sha1 63 63).engine.h) ∧
    (∃ t, exec .finalize (readyAt .sha1 0 0) = .next t ∧ t.engine.h ≠ (readyAt .sha1 0 0).engine.h) :=
  ⟨⟨_, rfl, by decide⟩, ⟨_, exec_update_of_ready 0x61 rfl (by decide), by decide +kernel⟩,
    ⟨_, exec_finalize_of_ready rfl (by decide), by decide +kernel⟩⟩

/-- INIT selects SHA-256 and clears LEN; UPDATE wraps LEN. -/
theorem witness_AlgorithmAndLengthWriters :
    (∃ t, exec (.init 1) (readyAt .sha1 3 3) = .next t ∧ t.engine.alg ≠ (readyAt .sha1 3 3).engine.alg ∧
      t.engine.len ≠ (readyAt .sha1 3 3).engine.len) ∧
    (∃ t, exec (.update 0) (readyAt .sha1 63 (BitVec.allOnes 64)) = .next t ∧
      t.engine.len ≠ (readyAt .sha1 63 (BitVec.allOnes 64)).engine.len) :=
  ⟨⟨_, rfl, by decide, by decide⟩, ⟨_, exec_update_of_ready 0 rfl (by decide), by decide⟩⟩

theorem witness_BufferWrittenOnlyByAbsorb :
    (∃ t, exec (.init 0) (readyAt .sha1 3 3) = .next t) ∧ (∃ t, exec (.update 0) (readyAt .sha1 63 63) = .next t) :=
  ⟨⟨_, rfl⟩, ⟨_, exec_update_of_ready 0 rfl (by decide)⟩⟩

theorem witness_ReadsAreIdempotent :
    (isInterleavable .rdstat = true ∧ ∃ t, exec .rdstat State.reset = .next t ∧ t.rsp = some ⟨0, 0⟩) ∧
    (∃ t, exec (.rddig 7) (finalOf .sha256) = .next t ∧ t.rsp = some ⟨0, 8⟩) := ⟨⟨rfl, _, rfl, rfl⟩, ⟨_, rfl, rfl⟩⟩

theorem witness_ResetEventRestoresResetValues :
    ({ finalOf .sha256 with inputs := [.resetDuring 0x30000000, .reset] } : State).inputs =
      .resetDuring 0x30000000 :: [.reset] := rfl

theorem witness_StepKeepsEngineInvariant : (readyAt .sha1 63 63).engine.Inv ∧
    (∃ t, step (given 0x20000061 (readyAt .sha1 63 63)) = .next t) :=
  ⟨⟨by decide, by decide, by decide, by decide, by decide, by decide, by decide⟩, _,
    exec_update_of_ready (s := readyAt .sha1 63 63) 0x61 rfl (by decide)⟩

theorem witness_EveryInputIsAccepted : (readyAt .sha256 63 (BitVec.ofNat 64 (2 ^ 61 - 1))).engine.Inv :=
  ⟨by decide, by decide, by decide, by decide, by decide, by decide, by decide⟩

/-- Two resets with other values in H and BUF, and two messages of two bytes with other bytes behind them. -/
theorem witness_UnspecifiedStateIsUnobservable :
    SameToHost State.reset { State.reset with engine := { State.reset.engine with h := initialHash .sha256 } } ∧
    SameToHost (readyAt .sha1 2 2)
      { readyAt .sha1 2 2 with
        engine := { (readyAt .sha1 2 2).engine with buf := (Vector.replicate 64 0x62).set 0 0x61 |>.set 1 0x61 } } :=
  ⟨⟨⟨rfl, rfl, fun h => absurd rfl h, fun _ _ => rfl, rfl, rfl, rfl, rfl, rfl⟩, rfl, rfl⟩,
    ⟨rfl, rfl, fun _ => rfl, by decide, rfl, rfl, rfl, rfl, rfl⟩, rfl, rfl⟩

theorem witness_InitForgetsThePast : (0 : BitVec 4).toNat < 2 ∧ (1 : BitVec 4).toNat < 2 := by decide

theorem witness_MessageDigestIgnoresInterleaving :
    (∀ i ∈ [Instr.update 0x61, .rdstat, .rdlen 1, .nop, .update 0x62], isMessageCommand i) ∧
    [Instr.update 0x61, .rdstat, .rdlen 1, .nop, .update 0x62].flatMap messageBytes = [0x61, 0x62] := by
  refine ⟨fun i hi => ?_, rfl⟩
  simp only [List.mem_cons, List.not_mem_nil, or_false] at hi
  rcases hi with rfl | rfl | rfl | rfl | rfl
  · exact .inr ⟨_, rfl⟩
  · exact .inl rfl
  · exact .inl rfl
  · exact .inl rfl
  · exact .inr ⟨_, rfl⟩

theorem witness_RddigSequenceReturnsDigest :
    (finalOf .sha1).engine.ls = .final ∧ (finalOf .sha256).engine.ls = .final := by decide

theorem witness_RoundFunctionsBitwise : (19 : Nat) ≤ 19 ∧ (20 : Nat) ≤ 20 ∧ (20 : Nat) ≤ 39 ∧ (40 : Nat) ≤ 40 ∧
    (40 : Nat) ≤ 59 ∧ (60 : Nat) ≤ 60 ∧ (60 : Nat) ≤ 79 := by decide

theorem witness_RotationsMoveBits : (1 : Nat) ≤ 1 ∧ (1 : Nat) ≤ 31 ∧ (31 : Nat) ≤ 31 ∧ (31 : Nat) < 32 := by decide

theorem witness_BlockWordsAreBigEndian : (0 : Nat) < 64 ∧ (63 : Nat) < 64 := by decide

theorem witness_SuffixIsBigEndianBitLength : (BitVec.ofNat 64 (2 ^ 61 - 1)).toNat < 2 ^ 61 := by decide

/-- Two engines. -/
def twoEngines : Config.NumInstances := ⟨2, by decide⟩

/-- With two engines, and with one, the bound of `NUM_INSTANCES`. -/
theorem witness_EnginesAreIndependent :
    (∃ q, stepInstance (n := twoEngines) (1 : Fin 2)
      ((resetPlatform twoEngines).set 1 (given 0x10000001 State.reset) (by decide)) = .next q) ∧
    ∃ q, stepInstance (n := ⟨1, by decide⟩) (0 : Fin 1) (resetPlatform ⟨1, by decide⟩) = .next q := ⟨⟨_, rfl⟩, ⟨_, rfl⟩⟩

end Sys2Proof.Tests
end

/-! The bits of the rotations and of the shift (00_scope.md R9, R10). The bit rule is taken from the library's `rotateRight` once;
a left rotation is a right rotation by the remaining places. -/

namespace Sys2Proof.Machine

theorem rotr_eq_rotateRight {n : Nat} (hn : n < 32) (x : Word) : rotr n x = x.rotateRight n :=
  (BitVec.rotateRight_eq_rotateRightAux_of_lt hn).symm

theorem rotl_eq_rotr {n : Nat} (hn : n ≤ 32) (x : Word) : rotl n x = rotr (32 - n) x := by
  rw [rotl, rotr, Nat.sub_sub_self hn, BitVec.or_comm]

theorem getLsbD_rotr {n k : Nat} (hn : n < 32) (hk : k < 32) (x : Word) :
    (rotr n x).getLsbD k = x.getLsbD ((k + n) % 32) := by
  rw [rotr_eq_rotateRight hn, BitVec.getLsbD_rotateRight_of_lt hn]
  by_cases hwrap : k < 32 - n
  · have hplace : (k + n) % 32 = n + k := by omega
    simp [hwrap, hplace]
  · have hplace : (k + n) % 32 = k - (32 - n) := by omega
    simp [hwrap, hplace, hk]

theorem getLsbD_rotl {n k : Nat} (hn₁ : 1 ≤ n) (hn₂ : n ≤ 31) (hk : k < 32) (x : Word) :
    (rotl n x).getLsbD ((k + n) % 32) = x.getLsbD k := by
  have hback : ((k + n) % 32 + (32 - n)) % 32 = k := by omega
  rw [rotl_eq_rotr (by omega), getLsbD_rotr (by omega) (Nat.mod_lt _ (by decide)), hback]

theorem getLsbD_shr (n k : Nat) (x : Word) :
    (shr n x).getLsbD k = (decide (k + n < 32) && x.getLsbD (k + n)) := by
  rw [shr, BitVec.getLsbD_ushiftRight, Nat.add_comm n k]
  by_cases hin : k + n < 32
  · simp [hin]
  · simp [hin, BitVec.getLsbD_of_ge x (k + n) (by omega)]

/-- Settles O49: the bit rules of `rotl`, `rotr` and `shr`. -/
theorem rotationsMoveBits : Obligations.RotationsMoveBits := by
  intro x n k hn₁ hn₂ hk
  exact ⟨getLsbD_rotl hn₁ hn₂ hk x, getLsbD_rotr (by omega) hk x, getLsbD_shr n k x⟩

end Sys2Proof.Machine

/-! What a command can do to the engine's registers (10_state.md R20 to R28), and the invariant of the engine. -/

namespace Sys2Proof.Machine

/-! ## The effect of a command on the engine -/

/-- The ways a command that answers a next state can leave the engine. -/
inductive EngineEffect (i : Instr) (s t : State) : Prop where
  /-- NOP or a read. -/
  | held (eng : t.engine = s.engine)
  /-- A failed check. -/
  | flagged (k : ErrorKind) (eng : t.engine = (raise k s).engine)
  /-- A successful INIT. -/
  | started (alg : BitVec 4) (instr : i = .init alg) (legal : alg.toNat < 2)
      (eng : t.engine = s.engine.startMessage (algorithmOf alg))
  /-- A successful UPDATE. -/
  | updated (b : Byte) (instr : i = .update b) (ready : s.engine.ls = .ready) (fits : s.engine.fill.toNat < 64)
      (eng : t.engine = s.engine.updateByte b)
  /-- A successful FINALIZE. -/
  | finished (instr : i = .finalize) (ready : s.engine.ls = .ready) (fits : s.engine.fill.toNat < 64)
      (eng : t.engine = s.engine.finish)

theorem Performed.engineEffect {i : Instr} {s t : State} (ho : operandLegal i s.engine.alg = true)
    (hl : lifecycleLegal i s.engine.ls = true) (h : Performed i s t) : EngineEffect i s t := by
  cases i with
  | nop | rddig idx | rdstat | rdlen hi => exact .held (by rw [h, respondOk_engine])
  | init alg => exact .started alg rfl (of_decide_eq_true ho) (congrArg State.engine h)
  | update b => exact .updated b rfl (of_decide_eq_true hl) h.1 (congrArg State.engine h.2)
  | finalize => exact .finished rfl (of_decide_eq_true hl) h.1 (congrArg State.engine h.2)

theorem exec_engineEffect {i : Instr} {s t : State} (h : exec i s = .next t) : EngineEffect i s t := by
  obtain ⟨-, rfl⟩ | ⟨-, -, rfl⟩ | ⟨ho, hl, hp⟩ := exec_next_cases h
  · exact .flagged .illegalCommand rfl
  · exact .flagged .sequenceError rfl
  · exact hp.engineEffect ho hl

/-- Everything a step can do when it answers a next state. -/
theorem step_next_cases {s t : State} (h : step s = .next t) :
    (s.inputs = [] ∧ t = s) ∨
    (∃ cmd rest, s.inputs = .command cmd :: rest ∧ performWord cmd { s with inputs := rest } = .next t) ∨
    (∃ x rest, s.inputs = x :: rest ∧ (x = .reset ∨ ∃ cmd, x = .resetDuring cmd) ∧
      t = resetEvent { s with inputs := rest }) := by
  unfold step turn at h
  split at h
  next hin => exact .inl ⟨hin, (Host.Outcome.next.inj h).symm⟩
  next x rest hin =>
    cases x with
    | command cmd => exact .inr (.inl ⟨cmd, rest, hin, h⟩)
    | reset => exact .inr (.inr ⟨_, rest, hin, .inl rfl, (Host.Outcome.next.inj h).symm⟩)
    | resetDuring cmd => exact .inr (.inr ⟨_, rest, hin, .inr ⟨cmd, rfl⟩, (Host.Outcome.next.inj h).symm⟩)

/-! ## H under UPDATE and FINALIZE -/

theorem absorb_h_of_fill_lt (e : Engine) (b : Byte) (h : e.fill.toNat < 63) : (e.absorb b).h = e.h := by
  rw [absorb_of_fill_lt e b h, put_h]

/-- UPDATE leaves H alone while the block is not yet full. -/
theorem updateByte_h_of_fill_lt (b : Byte) (e : Engine) (h : e.fill.toNat < 63) : (e.updateByte b).h = e.h :=
  absorb_h_of_fill_lt _ b h

theorem updateByte_high_words (b : Byte) (e : Engine) (h : e.alg = .sha1) :
    (e.updateByte b).h[5] = e.h[5] ∧ (e.updateByte b).h[6] = e.h[6] ∧ (e.updateByte b).h[7] = e.h[7] :=
  absorb_high_words _ b h

theorem finish_high_words (e : Engine) (h : e.fill.toNat < 64) (ha : e.alg = .sha1) :
    e.finish.h[5] = e.h[5] ∧ e.finish.h[6] = e.h[6] ∧ e.finish.h[7] = e.h[7] := by
  rw [finish_eq_absorbAll e h]
  exact absorbAll_high_words _ e ha

theorem initialHash_sha1_high_words :
    (initialHash .sha1)[5] = 0 ∧ (initialHash .sha1)[6] = 0 ∧ (initialHash .sha1)[7] = 0 := by decide

/-! ## The counts -/

theorem toNat_len_add_one (len : BitVec 64) : (len + 1).toNat = (len.toNat + 1) % 2 ^ 64 := BitVec.toNat_add len 1

/-- While LOVF stays 0 the new LEN is still below 2^61 (10_state.md R27). -/
theorem len_add_one_lt_of_lovf_clear {lovf : Bool} {len : BitVec 64} (h : lovfAfterUpdate lovf len = false) :
    (len + 1).toNat < 2 ^ 61 := by
  have hlen : len.toNat < 2 ^ 61 - 1 := by simpa using (Bool.or_eq_false_iff.1 h).2
  rw [toNat_len_add_one]
  omega

/-! ## The invariant of the engine -/

theorem afterReset_inv (h : Vector Word 8) (buf : Vector Byte 64) (dp : Datapath) (draws : Nat) :
    (Engine.afterReset h buf dp draws).Inv where
  fill := Nat.zero_lt_succ _
  errcode := ⟨fun _ => rfl, nofun⟩
  uninit := fun _ => ⟨rfl, rfl, rfl, rfl⟩
  ready := nofun
  final := nofun
  lovf := fun _ => Nat.two_pow_pos 61
  inactive := fun hls => absurd rfl hls

theorem capturedCode_is_error {err : Bool} {code : BitVec 2} (k : ErrorKind)
    (h : err = true → code = 1 ∨ code = 2) : capturedCode err code k = 1 ∨ capturedCode err code k = 2 := by
  cases err with
  | true => exact h rfl
  | false =>
    cases k with
    | sequenceError => exact .inl rfl
    | illegalCommand => exact .inr rfl

theorem raise_inv (k : ErrorKind) {s : State} (h : s.engine.Inv) : (raise k s).engine.Inv where
  fill := h.fill
  errcode := ⟨nofun, fun _ => capturedCode_is_error k h.errcode.2⟩
  uninit := h.uninit
  ready := h.ready
  final := h.final
  lovf := h.lovf
  inactive := h.inactive

theorem startMessage_inv (a : Algorithm) (e : Engine) : (e.startMessage a).Inv where
  fill := by simp [FillAtRest]
  errcode := ⟨fun _ => rfl, nofun⟩
  uninit := nofun
  ready := fun _ => rfl
  final := nofun
  lovf := fun _ => by simp
  inactive := fun _ ha => by
    obtain rfl : a = .sha1 := ha
    exact initialHash_sha1_high_words

theorem updateByte_inv (b : Byte) {e : Engine} (h : e.Inv) (hr : e.ls = .ready) : (e.updateByte b).Inv := by
  obtain ⟨hls, halg, hlen, hlovf, herr, hcode⟩ := updateByte_control b e
  have hfill := updateByte_fill b e h.fill
  constructor
  case fill => exact hfill.trans_lt (Nat.mod_lt _ (by decide))
  case errcode => simpa only [ErrcodeMatchesErr, herr, hcode] using h.errcode
  case uninit => intro hu; simp [hls, hr] at hu
  case ready =>
    intro _
    have hcount := h.ready hr
    rw [hfill, hlen, toNat_len_add_one]
    omega
  case final => intro hf; simp [hls, hr] at hf
  case lovf =>
    intro ho
    rw [hlen]
    exact len_add_one_lt_of_lovf_clear (hlovf.symm.trans ho)
  case inactive =>
    intro _ ha
    rw [halg] at ha
    obtain ⟨h5, h6, h7⟩ := updateByte_high_words b e ha
    rw [h5, h6, h7]
    exact h.inactive (by simp [hr]) ha

theorem finish_inv {e : Engine} (h : e.Inv) (hr : e.ls = .ready) : e.finish.Inv := by
  obtain ⟨hls, halg, hlen, hlovf, herr, hcode⟩ := finish_control e h.fill
  have hfill := finish_fill e h.fill
  constructor
  case fill => simp [FillAtRest, hfill]
  case errcode => simpa only [ErrcodeMatchesErr, herr, hcode] using h.errcode
  case uninit => intro hu; simp [hls] at hu
  case ready => intro hd; simp [hls] at hd
  case final => exact fun _ => hfill
  case lovf => simpa only [LovfBoundsLength, hlovf, hlen] using h.lovf
  case inactive =>
    intro _ ha
    rw [halg] at ha
    obtain ⟨h5, h6, h7⟩ := finish_high_words e h.fill ha
    rw [h5, h6, h7]
    exact h.inactive (by simp [hr]) ha

theorem exec_inv {i : Instr} {s t : State} (h : s.engine.Inv) (he : exec i s = .next t) : t.engine.Inv := by
  cases exec_engineEffect he with
  | held eng => exact eng ▸ h
  | flagged k eng => exact eng ▸ raise_inv k h
  | started alg _ _ eng => exact eng ▸ startMessage_inv _ _
  | updated b _ ready _ eng => exact eng ▸ updateByte_inv b h ready
  | finished _ ready _ eng => exact eng ▸ finish_inv h ready

theorem performWord_inv {cmd : Word} {s t : State} (h : s.engine.Inv) (hp : performWord cmd s = .next t) :
    t.engine.Inv := by
  obtain ⟨_, -, rfl⟩ | ⟨i, -, he⟩ := performWord_next_cases hp
  · exact raise_inv _ h
  · exact exec_inv h he

/-- Settles O34: a step is idle, performs one word or resets, and each keeps the invariant. -/
theorem stepKeepsEngineInvariant : Obligations.StepKeepsEngineInvariant := by
  intro s t h hstep
  obtain ⟨-, rfl⟩ | ⟨cmd, rest, -, hp⟩ | ⟨_, rest, -, -, rfl⟩ := step_next_cases hstep
  · exact h
  · exact performWord_inv (s := { s with inputs := rest }) h hp
  · exact afterReset_inv _ _ _ _

/-- Settles O33: by `afterReset_inv`, which holds for every value of the unspecified registers. -/
theorem engineInvariantAtReset : Obligations.EngineInvariantAtReset :=
  afterReset_inv _ _ _ _

/-! ## The writers of LS, H, ALG, LEN and BUF -/

/-- Settles O26: of the effects on the engine only a started and a finished message change LS. -/
theorem lifecycleTransitions : Obligations.LifecycleTransitions := by
  intro i s t he hne
  cases exec_engineEffect he with
  | held eng | flagged _ eng => exact absurd (congrArg Engine.ls eng) hne
  | started alg instr legal eng => exact .inl ⟨alg, instr, legal, congrArg Engine.ls eng⟩
  | updated b _ _ _ eng => exact absurd (eng ▸ (updateByte_control b s.engine).1) hne
  | finished instr ready fits eng => exact .inr ⟨instr, ready, eng ▸ (finish_control s.engine fits).1⟩

/-- Settles O27: an UPDATE with FILL below 63 leaves H, so one that changes H found FILL at 63. -/
theorem hashWrittenOnlyByInitAndBlocks : Obligations.HashWrittenOnlyByInitAndBlocks := by
  intro i s t he hne
  cases exec_engineEffect he with
  | held eng | flagged _ eng => exact absurd (congrArg Engine.h eng) hne
  | started alg instr legal _ => exact .inl ⟨alg, instr, legal⟩
  | updated b instr ready fits eng =>
    have hfull : ¬ s.engine.fill.toNat < 63 := fun hlt => hne (eng ▸ updateByte_h_of_fill_lt b s.engine hlt)
    exact .inr (.inl ⟨b, instr, ready, by omega⟩)
  | finished instr ready _ _ => exact .inr (.inr ⟨instr, ready⟩)

/-- Settles O28: the control registers after each effect on the engine. -/
theorem algorithmAndLengthWriters : Obligations.AlgorithmAndLengthWriters := by
  intro i s t he
  cases exec_engineEffect he with
  | held eng | flagged _ eng =>
    rw [eng]
    exact ⟨absurd rfl, absurd rfl⟩
  | started alg instr legal eng =>
    exact ⟨fun _ => ⟨alg, instr, legal⟩, fun _ => .inl ⟨alg, instr, legal, congrArg Engine.len eng⟩⟩
  | updated b instr ready _ eng =>
    obtain ⟨-, halg, hlen, -⟩ := updateByte_control b s.engine
    refine ⟨absurd (eng ▸ halg), fun _ => .inr ⟨b, instr, ready, ?_⟩⟩
    rw [eng, hlen, toNat_len_add_one]
  | finished _ _ fits eng =>
    obtain ⟨-, halg, hlen, -⟩ := finish_control s.engine fits
    exact ⟨absurd (eng ▸ halg), absurd (eng ▸ hlen)⟩

/-- Settles O29: an effect on the engine that is no UPDATE and no FINALIZE keeps BUF as a whole. -/
theorem bufferWrittenOnlyByAbsorb : Obligations.BufferWrittenOnlyByAbsorb := by
  intro i s t he
  cases exec_engineEffect he with
  | held eng | flagged _ eng | started _ _ _ eng => exact .inr fun k => congrArg (bufByte ·.buf k) eng
  | updated b instr ready _ _ => exact .inl ⟨.inl ⟨b, instr⟩, ready⟩
  | finished instr ready _ _ => exact .inl ⟨.inr instr, ready⟩

theorem exec_update_next {s t : State} {b : Byte} (hr : s.engine.ls = .ready) (h : exec (.update b) s = .next t) :
    s.engine.fill.toNat < 64 ∧ t = complete (s.engine.updateByte b) s := by
  rw [exec, execUpdate, checked_of_legal rfl (by simp [lifecycleLegal, hr])] at h
  obtain ⟨hfits, ht⟩ := whereFillFits_next h
  exact ⟨hfits, (Host.Outcome.next.inj ht).symm⟩

theorem bufByte_updateByte (b : Byte) (e : Engine) (h : e.fill.toNat < 64) (i : Nat) :
    bufByte (e.updateByte b).buf i = if i = e.fill.toNat then b else bufByte e.buf i := by
  rw [updateByte_buf, bufByte_setIfInBounds]
  simp [h]

/-- Settles O13: the bytes of BUF after a successful UPDATE, by `bufByte_updateByte`. -/
theorem updateWritesOnlyItsByte : Obligations.UpdateWritesOnlyItsByte := by
  intro s t b hr he
  obtain ⟨hfits, rfl⟩ := exec_update_next hr he
  rw [complete_engine]
  constructor
  · rw [bufByte_updateByte b _ hfits, if_pos rfl]
  · intro i hi
    rw [bufByte_updateByte b _ hfits, if_neg hi]

/-! ## The views of LEN (10_state.md R30) -/

theorem exec_rdlen (hi : BitVec 1) (s : State) :
    exec (.rdlen hi) s = .next (answered (lenView hi s.engine.len) s) := by
  rw [exec, execRdlen, checked_of_legal rfl rfl, respondOk, okCode, answered]

theorem toNat_lenView_zero (len : BitVec 64) : (lenView 0 len).toNat = len.toNat % 2 ^ 32 := by
  simp [lenView, BitVec.extractLsb'_toNat]

theorem toNat_lenView_one (len : BitVec 64) : (lenView 1 len).toNat = len.toNat / 2 ^ 32 := by
  have hlt := len.isLt
  simp only [lenView, if_neg (show (1 : BitVec 1) ≠ 0 by decide), BitVec.extractLsb'_toNat, Nat.shiftRight_eq_div_pow]
  omega

/-- Settles O17: RDLEN answers the two length views. -/
theorem rdlenReadsLengthHalf : Obligations.RdlenReadsLengthHalf := by
  intro s
  exact ⟨lenView 0 s.engine.len, lenView 1 s.engine.len, exec_rdlen 0 s, exec_rdlen 1 s,
    toNat_lenView_zero _, toNat_lenView_one _⟩

end Sys2Proof.Machine

/-! The byte orders of the block buffer and of the length suffix (20_memory.md R63, R66), and the commands that read (R69). -/

namespace Sys2Proof.Machine

/-! ## The block words -/

theorem bufByte_eq_getElem (buf : Vector Byte 64) {i : Nat} (hi : i < 64) : bufByte buf i = buf[i] := by
  simp [bufByte, Vector.getD, hi]

/-- A field above the last byte does not see that byte. -/
theorem extractLsb'_append_byte {w : Nat} (x : BitVec w) (b : Byte) (p : Nat) :
    (x ++ b).extractLsb' (p + 8) 8 = x.extractLsb' p 8 := by
  rw [BitVec.extractLsb'_append_eq_of_le (Nat.le_add_left 8 p), Nat.add_sub_cancel]

theorem extractLsb'_blockWord (buf : Vector Byte 64) (j : Nat) {k : Nat} (hk : k < 4) :
    (blockWord buf j).extractLsb' (24 - 8 * k) 8 = bufByte buf (4 * j + k) := by
  match k, hk with
  | 0, _ =>
    exact (extractLsb'_append_byte _ _ 16).trans
      ((extractLsb'_append_byte _ _ 8).trans BitVec.extractLsb'_append_eq_left)
  | 1, _ =>
    exact (extractLsb'_append_byte _ _ 8).trans
      ((extractLsb'_append_byte _ _ 0).trans BitVec.extractLsb'_append_eq_right)
  | 2, _ => exact (extractLsb'_append_byte _ _ 0).trans BitVec.extractLsb'_append_eq_right
  | 3, _ => exact BitVec.extractLsb'_append_eq_right

/-- Settles O50: byte `i` is byte `i mod 4` of block word `i div 4`. -/
theorem blockWordsAreBigEndian : Obligations.BlockWordsAreBigEndian := by
  intro buf i hi
  rw [blockWords, Vector.getElem_ofFn, extractLsb'_blockWord buf _ (Nat.mod_lt i (by decide)), Nat.div_add_mod,
    bufByte_eq_getElem buf hi]

/-! ## The length suffix -/

theorem toNat_bitLength (len : BitVec 64) : (bitLength len).toNat = 8 * len.toNat % 2 ^ 64 := by
  rw [bitLength, BitVec.toNat_mul, Nat.mul_comm]
  rfl

/-- The value read so far after one more byte, most significant byte first. -/
def bigEndianStep (n : Nat) (b : Byte) : Nat := 256 * n + b.toNat

/-- Reading one byte more moves the value's lower end eight bits down. -/
theorem bigEndianStep_extractLsb' (l : BitVec 64) (p : Nat) :
    bigEndianStep (l.toNat / 2 ^ (p + 8)) (l.extractLsb' p 8) = l.toNat / 2 ^ p := by
  rw [bigEndianStep, BitVec.extractLsb'_toNat, Nat.shiftRight_eq_div_pow, pow_add, ← Nat.div_div_eq_div_mul]
  exact Nat.div_add_mod _ 256

/-- The first `n` suffix bytes are the number's top `8n` bits. -/
theorem foldl_suffix_prefix (l : BitVec 64) {n : Nat} (hn : n ≤ 8) :
    ((List.range n).map fun k => l.extractLsb' (56 - 8 * k) 8).foldl bigEndianStep 0 = l.toNat / 2 ^ (64 - 8 * n) := by
  induction n with
  | zero => exact (Nat.div_eq_of_lt l.isLt).symm
  | succ n ih =>
    have hplace : 64 - 8 * n = 56 - 8 * n + 8 := by omega
    have hnext : 64 - 8 * (n + 1) = 56 - 8 * n := by omega
    rw [List.range_succ, List.map_append, List.foldl_append, ih (by omega), hplace, hnext]
    exact bigEndianStep_extractLsb' l _

theorem foldl_suffixBytes (l : BitVec 64) : (suffixBytes l).foldl bigEndianStep 0 = l.toNat :=
  (foldl_suffix_prefix l (Nat.le_refl 8)).trans (Nat.div_one _)

theorem suffixBytes_eq_bigEndian64 (l : BitVec 64) : suffixBytes l = bigEndian64 l := rfl

/-- Settles O51: the suffix bytes read back are the bit length, which is LEN * 8 modulo 2^64. -/
theorem suffixIsBigEndianBitLength : Obligations.SuffixIsBigEndianBitLength := by
  intro len
  refine ⟨suffixBytes_eq_bigEndian64 _, (foldl_suffixBytes _).trans (toNat_bitLength len), fun hlt => ?_⟩
  rw [toNat_bitLength, Nat.mod_eq_of_lt (by omega)]

/-! ## The commands that read -/

/-- A command that reads and writes nothing in the engine, NOP included (20_memory.md R69). -/
abbrev isReadCommand (i : Instr) : Prop := isInterleavable i = true ∨ ∃ idx, i = .rddig idx

/-- The data of a read that succeeds. -/
def readData (e : Engine) : Instr → Word
  | .rddig idx => hashWord e.h idx
  | .rdstat => statusWord e
  | .rdlen hi => lenView hi e.len
  | .nop | .init _ | .update _ | .finalize => 0

theorem exec_read {i : Instr} (h : isReadCommand i) (s : State) :
    exec i s = checked i s fun s => .next (respondOk (readData s.engine i) s) := by
  obtain hi | ⟨idx, rfl⟩ := h
  · cases i with
    | nop | rdstat | rdlen _ => rfl
    | init _ | update _ | finalize | rddig _ => cases hi
  · rfl

theorem ErrorKind.code_ne_okCode (k : ErrorKind) : k.code ≠ okCode := by
  cases k <;> decide

theorem raise_rsp_ne_ok (k : ErrorKind) (s : State) (d : Word) : (raise k s).rsp ≠ some ⟨okCode, d⟩ := by
  intro h
  rw [raise_rsp] at h
  exact k.code_ne_okCode (congrArg Response.err (Option.some.inj h))

/-- Where the answer is OK both checks have passed. -/
theorem checked_next_ok {i : Instr} {s t : State} {f : State → Result} {d : Word} (h : checked i s f = .next t)
    (hrsp : t.rsp = some ⟨okCode, d⟩) :
    operandLegal i s.engine.alg = true ∧ lifecycleLegal i s.engine.ls = true ∧ f s = .next t := by
  obtain ⟨-, rfl⟩ | ⟨-, -, rfl⟩ | hpassed := checked_next_cases h
  · exact absurd hrsp (raise_rsp_ne_ok _ s d)
  · exact absurd hrsp (raise_rsp_ne_ok _ s d)
  · exact hpassed

/-- Settles O30: the checks and the data of a read depend on the engine alone, which `respondOk` leaves. -/
theorem readsAreIdempotent : Obligations.ReadsAreIdempotent := by
  intro i s t hread hexec ⟨d, hrsp⟩
  rw [exec_read hread] at hexec
  obtain ⟨hoperand, hlifecycle, hperformed⟩ := checked_next_ok hexec hrsp
  obtain rfl := Host.Outcome.next.inj hperformed
  refine ⟨rfl, fun u hu => ?_⟩
  rw [← hu] at hoperand hlifecycle ⊢
  rw [exec_read hread, checked_of_legal hoperand hlifecycle]
  rfl

end Sys2Proof.Machine

/-! Decoder and encoder are inverse to each other (30_encoding.md R93, R106): both are held to the word's value `wordValue`, so
each claim about words is one about numbers. -/

namespace Sys2Proof

/-! ## The word of a command -/

/-- An operand stands in the low bits, which its row's match leaves zero. -/
theorem toNat_or_setWidth {n : Nat} (hn : n ≤ 32) {v : Word} (hv : 2 ^ n ∣ v.toNat) (x : BitVec n) :
    (v ||| x.setWidth 32).toNat = v.toNat + x.toNat := by
  obtain ⟨c, hc⟩ := hv
  rw [BitVec.toNat_or, BitVec.toNat_setWidth_of_le hn, hc, Nat.two_pow_add_eq_or_of_lt x.isLt]

theorem toNat_encode (i : Instr) : (encode i).toNat = wordValue i := by
  cases i with
  | nop | finalize | rdstat => rfl
  | init alg => exact toNat_or_setWidth (by decide) (by decide) alg
  | update byte => exact toNat_or_setWidth (by decide) (by decide) byte
  | rddig idx => exact toNat_or_setWidth (by decide) (by decide) idx
  | rdlen hi => exact toNat_or_setWidth (by decide) (by decide) hi

theorem encode_eq_iff {w : Word} {i : Instr} : encode i = w ↔ w.toNat = wordValue i := by
  rw [← BitVec.toNat_inj, toNat_encode, eq_comm]

theorem toNat_low_field (w : Word) (k : Nat) : (w.extractLsb' 0 k).toNat = w.toNat % 2 ^ k := by
  rw [toNat_extractLsb'_word, pow_zero, Nat.div_one]

/-- The fields of a word made of an opcode and an operand. -/
theorem fields_of_toNat_eq {w : Word} {op k : Nat} {x : BitVec k} (hk : k ≤ 28) (h : w.toNat = op * 2 ^ 28 + x.toNat) :
    w.toNat / 2 ^ 28 = op ∧ w.toNat % 2 ^ 28 / 2 ^ k = 0 ∧ w.extractLsb' 0 k = x := by
  have hx := x.isLt
  have hlow : x.toNat < 2 ^ 28 := hx.trans_le (Nat.pow_le_pow_right (by decide) hk)
  refine ⟨by omega, ?_, ?_⟩
  · rw [h, Nat.mul_add_mod_of_lt hlow, Nat.div_eq_of_lt hx]
  · have hdvd : 2 ^ k ∣ op * 2 ^ 28 := (Nat.pow_dvd_pow 2 hk).mul_left op
    rw [← BitVec.toNat_inj, toNat_low_field, h, Nat.add_mod, Nat.mod_eq_zero_of_dvd hdvd, Nat.zero_add, Nat.mod_mod,
      Nat.mod_eq_of_lt hx]

/-- The word whose value is a command's decodes to that command. -/
theorem decode_of_toNat_eq {w : Word} {i : Instr} (h : w.toNat = wordValue i) : decode w = .ok i := by
  rw [decode_by_fields]
  cases i with
  | nop | finalize | rdstat => simp [h, wordValue]
  | init alg =>
    obtain ⟨hop, hclear, hfield⟩ := fields_of_toNat_eq (op := 1) (by decide) h
    rw [hop, hclear, hfield]
    rfl
  | update byte =>
    obtain ⟨hop, hclear, hfield⟩ := fields_of_toNat_eq (op := 2) (by decide) h
    rw [hop, hclear, hfield]
    rfl
  | rddig idx =>
    obtain ⟨hop, hclear, hfield⟩ := fields_of_toNat_eq (op := 4) (by decide) h
    rw [hop, hclear, hfield]
    rfl
  | rdlen hi =>
    obtain ⟨hop, hclear, hfield⟩ := fields_of_toNat_eq (op := 6) (by decide) h
    rw [hop, hclear, hfield]
    rfl

/-- Settles O1: the word's value is the command's, by `toNat_encode`, and such a word decodes to it. -/
theorem decodeInvertsEncode : Obligations.DecodeInvertsEncode := by
  intro i
  exact decode_of_toNat_eq (toNat_encode i)

/-- Settles O2: a word that decodes has the value of its command, and a word is its value. -/
theorem encodeInvertsDecode : Obligations.EncodeInvertsDecode := by
  intro w i h
  exact encode_eq_iff.2 (decode_eq_ok h)

/-- Settles O4: by evaluation of each word. -/
theorem writtenWordsDecode : Obligations.WrittenWordsDecode := by
  unfold Obligations.WrittenWordsDecode
  decide

/-! ## The opcode map (30_encoding.md R93, R106) -/

theorem tableRow_statement (i : Instr) : Laws.TableRow.Statement i := by
  cases i with
  | nop => exact Laws.TableRow.nop
  | init alg => exact Laws.TableRow.init alg
  | update byte => exact Laws.TableRow.update byte
  | finalize => exact Laws.TableRow.finalize
  | rddig idx => exact Laws.TableRow.rddig idx
  | rdstat => exact Laws.TableRow.rdstat
  | rdlen hi => exact Laws.TableRow.rdlen hi

/-- A word that decodes belongs to the row of its command. -/
theorem exists_row_of_decode_eq_ok {w : Word} {i : Instr} (h : decode w = .ok i) :
    ∃ r ∈ opcodeTable, r.Matches w ∧ r.mnemonic = i.mnemonic := by
  obtain ⟨r, hr, hname, hmatch⟩ := tableRow_statement i
  exact ⟨r, hr, encode_eq_iff.2 (decode_eq_ok h) ▸ hmatch, hname⟩

/-- A word of a row is the row's match with the operand in the bits the mask leaves free. -/
theorem toNat_eq_of_masked {w v mask : Word} (k : Nat) (hk : k ≤ 32) (hmask : mask = BitVec.allOnes 32 <<< k)
    (h : w &&& mask = v) : w.toNat = v.toNat + (w.extractLsb' 0 k).toNat := by
  rw [← (and_shifted_ones_eq_iff w v hk).1 (hmask ▸ h), toNat_low_field, Nat.div_add_mod']

/-- A word of a row decodes to a command of the row's mnemonic. -/
theorem exists_decode_of_matches {w : Word} {r : OpcodeRow} (hr : r ∈ opcodeTable) (h : r.Matches w) :
    ∃ i, decode w = .ok i ∧ i.mnemonic = r.mnemonic := by
  simp only [opcodeTable, List.mem_cons, List.not_mem_nil, or_false] at hr
  obtain rfl | rfl | rfl | rfl | rfl | rfl | rfl := hr
  · exact ⟨.nop, decode_of_toNat_eq (congrArg BitVec.toNat (BitVec.and_allOnes.symm.trans h)), rfl⟩
  · exact ⟨.init _, decode_of_toNat_eq (toNat_eq_of_masked 4 (by decide) (by decide) h), rfl⟩
  · exact ⟨.update _, decode_of_toNat_eq (toNat_eq_of_masked 8 (by decide) (by decide) h), rfl⟩
  · exact ⟨.finalize, decode_of_toNat_eq (congrArg BitVec.toNat (BitVec.and_allOnes.symm.trans h)), rfl⟩
  · exact ⟨.rddig _, decode_of_toNat_eq (toNat_eq_of_masked 3 (by decide) (by decide) h), rfl⟩
  · exact ⟨.rdstat, decode_of_toNat_eq (congrArg BitVec.toNat (BitVec.and_allOnes.symm.trans h)), rfl⟩
  · exact ⟨.rdlen _, decode_of_toNat_eq (toNat_eq_of_masked 1 (by decide) (by decide) h), rfl⟩

theorem opcodeTable_mnemonic_injective :
    ∀ r ∈ opcodeTable, ∀ q ∈ opcodeTable, r.mnemonic = q.mnemonic → r = q := by decide

/-- The rows are pairwise disjoint: a word decodes to one command, which has one mnemonic. -/
theorem row_unique {w : Word} {r q : OpcodeRow} (hr : r ∈ opcodeTable) (hq : q ∈ opcodeTable) (hrw : r.Matches w)
    (hqw : q.Matches w) : r = q := by
  obtain ⟨i, hi, hir⟩ := exists_decode_of_matches hr hrw
  obtain ⟨j, hj, hjq⟩ := exists_decode_of_matches hq hqw
  obtain rfl : i = j := Except.ok.inj (hi.symm.trans hj)
  exact opcodeTable_mnemonic_injective r hr q hq (hir.symm.trans hjq)

/-- The two ways in which a word is no command (30_encoding.md R102, R103). -/
theorem decode_eq_error {w : Word} {e : DecodeError} (h : decode w = .error e) :
    (7 ≤ w.toNat / 2 ^ 28 ∧ e = .reservedOpcode (opcodeOf w)) ∨
    (w.toNat / 2 ^ 28 < 7 ∧ e = .reservedBits (opcodeOf w)) := by
  rw [decode_by_fields] at h
  split_ifs at h <;> cases h
  rotate_right
  · exact .inl ⟨by omega, rfl⟩
  all_goals exact .inr ⟨by omega, rfl⟩

theorem decode_of_no_row {w : Word} (h : ∀ r ∈ opcodeTable, ¬ r.Matches w) :
    (7 ≤ w.toNat / 2 ^ 28 ∧ decode w = .error (.reservedOpcode (opcodeOf w))) ∨
    (w.toNat / 2 ^ 28 < 7 ∧ decode w = .error (.reservedBits (opcodeOf w))) := by
  cases hd : decode w with
  | ok i =>
    obtain ⟨r, hr, hmatch, -⟩ := exists_row_of_decode_eq_ok hd
    exact absurd hmatch (h r hr)
  | error e =>
    obtain ⟨hop, rfl⟩ | ⟨hop, rfl⟩ := decode_eq_error hd
    · exact .inl ⟨hop, rfl⟩
    · exact .inr ⟨hop, rfl⟩

/-- The low bits of a word above a multiple of `2 ^ k` are its operand. -/
theorem toNat_operand {w : Word} {k m : Nat} (hk : k ≤ 28) {x : BitVec k} (h : w.toNat = m * 2 ^ 28 + x.toNat) :
    x.toNat = w.toNat % 2 ^ k := by
  obtain ⟨-, -, hfield⟩ := fields_of_toNat_eq hk h
  rw [← hfield, toNat_low_field]

/-- Settles O3: rows and commands correspond, and the operand is the word's low field. -/
theorem decoderFollowsOpcodeMap : Obligations.DecoderFollowsOpcodeMap := by
  intro w
  refine ⟨fun r hr q hq => row_unique hr hq, fun r hr => exists_decode_of_matches hr,
    fun i => exists_row_of_decode_eq_ok, decode_of_no_row, ?_, ?_, ?_, ?_⟩
  · exact fun a h => toNat_operand (m := 1) (by decide) (decode_eq_ok h)
  · exact fun b h => toNat_operand (m := 2) (by decide) (decode_eq_ok h)
  · exact fun i h => toNat_operand (m := 4) (by decide) (decode_eq_ok h)
  · exact fun v h => toNat_operand (m := 6) (by decide) (decode_eq_ok h)

end Sys2Proof

namespace Sys2Proof.Machine

/-! ## Words that are refused, and the form of every answer (30_encoding.md R92, R102 to R104) -/

theorem raise_illegalCommand (s : State) : raise .illegalCommand s = erred 2 s := rfl

theorem performWord_of_decode_error {cmd : Word} {e : DecodeError} (h : decode cmd = .error e) (s : State) :
    performWord cmd s = .next (erred 2 s) := by
  simp only [performWord, h, raise_illegalCommand]

theorem performWord_of_decode_ok {cmd : Word} {i : Instr} (h : decode cmd = .ok i) (s : State) :
    performWord cmd s = exec i s := by
  rw [performWord, h]

/-- 30_encoding.md R102 and R103: OP is 7 to 15, or a bit of the format's reserved area is set. -/
def IsReserved (cmd : Word) : Prop :=
  7 ≤ cmd.toNat / 2 ^ 28 ∨
  (cmd.toNat / 2 ^ 28 ∈ [0, 3, 5] ∧ cmd.toNat % 2 ^ 28 ≠ 0) ∨
  (cmd.toNat / 2 ^ 28 = 1 ∧ cmd.toNat % 2 ^ 28 / 16 ≠ 0) ∨
  (cmd.toNat / 2 ^ 28 = 2 ∧ cmd.toNat % 2 ^ 28 / 256 ≠ 0) ∨
  (cmd.toNat / 2 ^ 28 = 4 ∧ cmd.toNat % 2 ^ 28 / 8 ≠ 0) ∨
  (cmd.toNat / 2 ^ 28 = 6 ∧ cmd.toNat % 2 ^ 28 / 2 ≠ 0)

/-- No command's word is reserved: its operand stays below its format's reserved area. -/
theorem not_isReserved_of_toNat_eq {cmd : Word} {i : Instr} (h : cmd.toNat = wordValue i) : ¬ IsReserved cmd := by
  cases i with
  | nop | finalize | rdstat => simp [IsReserved, h, wordValue]
  | init x | update x | rddig x | rdlen x =>
    have hx := x.isLt
    simp only [IsReserved, h, wordValue, List.mem_cons, List.not_mem_nil, or_false]
    omega

theorem exists_decode_eq_error_of_isReserved {cmd : Word} (h : IsReserved cmd) : ∃ e, decode cmd = .error e := by
  cases hd : decode cmd with
  | error e => exact ⟨e, rfl⟩
  | ok i => exact absurd h (not_isReserved_of_toNat_eq (decode_eq_ok hd))

/-- Settles O7: a reserved word does not decode, and a word that does not decode raises IllegalCommand. -/
theorem reservedWordsRaiseIllegalCommand : Obligations.ReservedWordsRaiseIllegalCommand := by
  intro s cmd rest hin hreserved
  obtain ⟨e, he⟩ := exists_decode_eq_error_of_isReserved hreserved
  rw [step_command hin, performWord_of_decode_error he]

theorem exec_init_reserved {alg : BitVec 4} (h : 2 ≤ alg.toNat) (s : State) :
    exec (.init alg) s = .next (erred 2 s) := by
  have hillegal : operandLegal (.init alg) s.engine.alg = false := decide_eq_false (Nat.not_lt.2 h)
  rw [exec, execInit, checked_of_operand_illegal hillegal, raise_illegalCommand]

/-- Settles O10: the words 0x10000002 to 0x1000000F are those of INIT 2 to 15. -/
theorem initReservedAlgorithmFails : Obligations.InitReservedAlgorithmFails := by
  refine ⟨fun s alg h => exec_init_reserved h s, fun s cmd rest hin hlow hhigh => ?_⟩
  have hfield : (cmd.extractLsb' 0 4).toNat = cmd.toNat % 16 := toNat_low_field cmd 4
  have hdecode : decode cmd = .ok (.init (cmd.extractLsb' 0 4)) :=
    decode_of_toNat_eq (by rw [wordValue, hfield]; omega)
  rw [step_command hin, performWord_of_decode_ok hdecode, exec_init_reserved (by omega)]

theorem Performed.rsp {i : Instr} {s t : State} (h : Performed i s t) : t.rsp = some ⟨0, readData s.engine i⟩ := by
  cases i with
  | nop | init _ | rddig _ | rdstat | rdlen _ => exact congrArg State.rsp h
  | update _ | finalize => exact congrArg State.rsp h.2

/-- Only RDDIG, RDSTAT and RDLEN have data to answer. -/
theorem opcode_of_readData_ne_zero {e : Engine} {i : Instr} (h : readData e i ≠ 0) :
    wordValue i / 2 ^ 28 ∈ [4, 5, 6] := by
  cases i with
  | nop | init _ | update _ | finalize => exact absurd rfl h
  | rdstat => decide
  | rddig x | rdlen x =>
    have hx := x.isLt
    simp only [wordValue, List.mem_cons, List.not_mem_nil, or_false]
    omega

/-- The answer to a command word: an error's code with data 0, or OK with the data of its command. -/
theorem performWord_rsp {cmd : Word} {s t : State} (h : performWord cmd s = .next t) :
    (∃ k : ErrorKind, t.rsp = some ⟨k.code, 0⟩) ∨
    ∃ i, decode cmd = .ok i ∧ t.rsp = some ⟨0, readData s.engine i⟩ := by
  obtain ⟨-, -, rfl⟩ | ⟨i, hd, he⟩ := performWord_next_cases h
  · exact .inl ⟨_, rfl⟩
  · obtain ⟨-, rfl⟩ | ⟨-, -, rfl⟩ | ⟨-, -, hp⟩ := exec_next_cases he
    · exact .inl ⟨_, rfl⟩
    · exact .inl ⟨_, rfl⟩
    · exact .inr ⟨i, hd, hp.rsp⟩

/-- Settles O24: an error's code is 1 or 2 with data 0, and nonzero data comes from a command that reads. -/
theorem responseIsWellFormed : Obligations.ResponseIsWellFormed := by
  intro cmd rest s t hin hstep
  rw [step_command hin] at hstep
  obtain ⟨k, hrsp⟩ | ⟨i, hd, hrsp⟩ := performWord_rsp hstep
  · exact ⟨_, hrsp, by cases k <;> decide, absurd rfl⟩
  · refine ⟨_, hrsp, show (0 : BitVec 2) ≠ 3 by decide, fun hdata => ⟨rfl, ?_⟩⟩
    rw [decode_eq_ok hd]
    exact opcode_of_readData_ne_zero hdata

/-! ## The assembler's words and ranges (30_encoding.md R107) -/

theorem assemble_singleton (last : Option Algorithm) (st : AsmStmt) :
    assemble last [st] = (assembleStmt last st).map (·.map encode) := by
  cases h : assembleStmt last st <;> simp [assemble, h]

/-- A form with a `k`-bit operand, refused where the operand is above the field's greatest number. -/
theorem assemble_operand {last : Option Algorithm} {st : AsmStmt} {i : Instr} {k n v : Nat}
    (hst : assembleStmt last st = if n < 2 ^ k then some [i] else none)
    (hi : wordValue i = v + (BitVec.ofNat k n).toNat) (hv : v + 2 ^ k ≤ 2 ^ 32) :
    assemble last [st] = if n ≤ 2 ^ k - 1 then some [BitVec.ofNat 32 (v + n)] else none := by
  rw [assemble_singleton, hst]
  by_cases hn : n < 2 ^ k
  · have hword : encode i = BitVec.ofNat 32 (v + n) := by
      rw [encode_eq_iff, hi, BitVec.toNat_ofNat, BitVec.toNat_ofNat, Nat.mod_eq_of_lt hn, Nat.mod_eq_of_lt (by omega)]
    rw [if_pos hn, if_pos (by omega), Option.map_some, List.map_singleton, hword]
  · rw [if_neg hn, if_neg (by omega), Option.map_none]

/-- Settles O53: by evaluation for the forms without a number, by `assemble_operand` for those with one. -/
theorem assemblerWordsAndRanges : Obligations.AssemblerWordsAndRanges := by
  intro last n
  exact ⟨rfl, rfl, rfl, rfl, rfl, rfl, rfl,
    assemble_operand (i := .init (BitVec.ofNat 4 n)) rfl rfl (by decide),
    assemble_operand (i := .update (BitVec.ofNat 8 n)) rfl rfl (by decide),
    assemble_operand (i := .rddig (BitVec.ofNat 3 n)) rfl rfl (by decide)⟩

end Sys2Proof.Machine

/-! A message through the engine (40_buffer.md R123): H holds the whole blocks absorbed and BUF the bytes after them, so that
FINALIZE leaves the message's hash and HASH answers its words (30_encoding.md R108, 43_hasher_commands.md R211, R213). -/

namespace Sys2Proof.Machine

/-! ## The blocks of a message -/

theorem hashAfterBlocks_zero (a : Algorithm) (p : List Byte) : hashAfterBlocks a p 0 = initialHash a := rfl

theorem hashAfterBlocks_succ (a : Algorithm) (p : List Byte) (n : Nat) :
    hashAfterBlocks a p (n + 1) = compressInto a (hashAfterBlocks a p n) (blockWords (blockAt p n)) := by
  rw [hashAfterBlocks, List.range_succ, List.foldl_append]
  rfl

theorem bufByte_blockAt (p : List Byte) (k : Nat) {i : Nat} (hi : i < 64) :
    bufByte (blockAt p k) i = p.getD (64 * k + i) 0 := by
  rw [bufByte_eq_getElem _ hi, blockAt, Vector.getElem_ofFn]

/-- A whole block of a message is not changed by the bytes after it. -/
theorem blockAt_append {p : List Byte} (q : List Byte) {k : Nat} (h : 64 * (k + 1) ≤ p.length) :
    blockAt (p ++ q) k = blockAt p k := by
  refine bufByte_ext fun i hi => ?_
  rw [bufByte_blockAt _ k hi, bufByte_blockAt _ k hi, List.getD_append _ _ _ _ (by omega)]

theorem hashAfterBlocks_append (a : Algorithm) {p : List Byte} (q : List Byte) {n : Nat} (h : 64 * n ≤ p.length) :
    hashAfterBlocks a (p ++ q) n = hashAfterBlocks a p n := by
  induction n with
  | zero => rw [hashAfterBlocks_zero, hashAfterBlocks_zero]
  | succ n ih => rw [hashAfterBlocks_succ, hashAfterBlocks_succ, ih (by omega), blockAt_append q h]

/-! ## What the engine holds of the bytes absorbed -/

/-- The engine has absorbed the bytes `p` since INIT: its whole blocks are compressed, the bytes after them are in BUF. -/
structure Absorbed (a : Algorithm) (p : List Byte) (e : Engine) : Prop where
  alg : e.alg = a
  fill : e.fill.toNat = p.length % 64
  hash : e.h = hashAfterBlocks a p (p.length / 64)
  buffered : ∀ i, i < p.length % 64 → bufByte e.buf i = p.getD (64 * (p.length / 64) + i) 0

theorem absorbed_startMessage (a : Algorithm) (e : Engine) : Absorbed a [] (e.startMessage a) :=
  ⟨rfl, rfl, rfl, fun i hi => absurd hi (Nat.not_lt_zero i)⟩

theorem Absorbed.fill_lt {a : Algorithm} {p : List Byte} {e : Engine} (h : Absorbed a p e) : e.fill.toNat < 64 :=
  h.fill ▸ Nat.mod_lt _ (by decide)

/-- BUF with the next byte at FILL. -/
theorem Absorbed.buffered_put {a : Algorithm} {p : List Byte} {e : Engine} (h : Absorbed a p e) (b : Byte) {i : Nat}
    (hi : i < p.length % 64 + 1) : bufByte (e.put b).buf i = (p ++ [b]).getD (64 * (p.length / 64) + i) 0 := by
  have hfill := h.fill_lt
  rw [put_buf, bufByte_setIfInBounds, h.fill]
  by_cases hnew : i = p.length % 64
  · have hlast : 64 * (p.length / 64) + i = p.length := by omega
    rw [if_pos ⟨hnew, by omega⟩, hlast, List.getD_append_right _ _ _ _ (Nat.le_refl _), Nat.sub_self]
    rfl
  · rw [if_neg fun hn => hnew hn.1, h.buffered i (by omega), List.getD_append _ _ _ _ (by omega)]

/-- One byte more: it is buffered, and a block it completes is compressed. -/
theorem Absorbed.absorb {a : Algorithm} {p : List Byte} {e : Engine} (h : Absorbed a p e) (b : Byte) :
    Absorbed a (p ++ [b]) (e.absorb b) := by
  have hlen : (p ++ [b]).length = p.length + 1 := List.length_append
  have hfill := h.fill
  by_cases hfull : p.length % 64 = 63
  · have hdiv : (p.length + 1) / 64 = p.length / 64 + 1 := by omega
    have hblock : (e.put b).buf = blockAt (p ++ [b]) (p.length / 64) :=
      bufByte_ext fun i hi => (h.buffered_put b (by omega)).trans (bufByte_blockAt _ _ hi).symm
    rw [absorb_of_fill_eq e b (hfill.trans hfull)]
    refine ⟨h.alg, ?_, ?_, fun i hi => ?_⟩
    · rw [hlen, Nat.add_mod, hfull]; rfl
    · rw [hlen, hdiv, hashAfterBlocks_succ, hashAfterBlocks_append a _ (by omega), ← hblock, ← h.hash, ← h.alg]
      rfl
    · rw [hlen] at hi; omega
  · have hdiv : (p.length + 1) / 64 = p.length / 64 := by omega
    have hmod : (p.length + 1) % 64 = p.length % 64 + 1 := by omega
    refine ⟨?_, ?_, ?_, ?_⟩
    · rw [absorb_alg, h.alg]
    · rw [absorb_fill e b h.fill_lt, hfill, hlen]; omega
    · rw [absorb_h_of_fill_lt e b (by omega), h.hash, hlen, hdiv, hashAfterBlocks_append a _ (by omega)]
    · rw [absorb_of_fill_lt e b (by omega), hlen, hdiv, hmod]
      exact fun i hi => h.buffered_put b hi

theorem Absorbed.absorbAll {a : Algorithm} (bs : List Byte) : ∀ {p : List Byte} {e : Engine}, Absorbed a p e →
    Absorbed a (p ++ bs) (e.absorbAll bs) := by
  induction bs with
  | nil => intro p e h; rwa [List.append_nil]
  | cons b bs ih =>
    intro p e h
    rw [List.append_cons, absorbAll_cons]
    exact ih (h.absorb b)

/-! ## The padding -/

theorem bitLength_ofNat (n : Nat) : bitLength (BitVec.ofNat 64 n) = BitVec.ofNat 64 (8 * n) := by
  rw [← BitVec.toNat_inj, toNat_bitLength, BitVec.toNat_ofNat, BitVec.toNat_ofNat, Nat.mul_mod_mod]

/-- What FINALIZE absorbs after a message pads it (43_hasher_commands.md R205). -/
theorem append_padBytes (m : List Byte) :
    m ++ padBytes (m.length % 64) (BitVec.ofNat 64 m.length) = paddedMessage m := by
  rw [padBytes, bitLength_ofNat, suffixBytes_eq_bigEndian64, paddedMessage, zeroCount, List.append_assoc]

/-- The engine between INIT and FINALIZE, after the bytes `m`. -/
structure InMessage (a : Algorithm) (m : List Byte) (e : Engine) : Prop where
  ready : e.ls = .ready
  len : e.len = BitVec.ofNat 64 m.length
  absorbed : Absorbed a m e

theorem inMessage_startMessage (a : Algorithm) (e : Engine) : InMessage a [] (e.startMessage a) :=
  ⟨rfl, rfl, absorbed_startMessage a e⟩

theorem InMessage.updateByte {a : Algorithm} {m : List Byte} {e : Engine} (h : InMessage a m e) (b : Byte) :
    InMessage a (m ++ [b]) (e.updateByte b) := by
  obtain ⟨hls, -, hlen, -⟩ := updateByte_control b e
  have hcounted : Absorbed a m { e with lovf := lovfAfterUpdate e.lovf e.len, len := e.len + 1 } :=
    ⟨h.absorbed.alg, h.absorbed.fill, h.absorbed.hash, h.absorbed.buffered⟩
  refine ⟨hls.trans h.ready, ?_, hcounted.absorb b⟩
  rw [hlen, h.len, List.length_append, BitVec.ofNat_add]
  rfl

/-- FINALIZE leaves the hash of the message (40_buffer.md R123). -/
theorem InMessage.finish_h {a : Algorithm} {m : List Byte} {e : Engine} (h : InMessage a m e) :
    e.finish.h = messageHash a m := by
  have hpadded := h.absorbed.absorbAll (padBytes e.fill.toNat e.len)
  rw [h.absorbed.fill, h.len, append_padBytes] at hpadded
  rw [finish_eq_absorbAll e h.absorbed.fill_lt, h.absorbed.fill, h.len, messageHash, ← hpadded.hash]

/-! ## Runs of commands -/

theorem execAll_cons_of_next {i : Instr} {s t : State} (h : exec i s = .next t) (is : List Instr) :
    execAll (i :: is) s = execAll is t := by
  rw [execAll, h]

theorem responses_cons_of_next {i : Instr} {s t : State} (h : exec i s = .next t) (is : List Instr) :
    responses (i :: is) s = t.rsp :: responses is t := by
  rw [responses, h]

/-- A run that completes completes its first command. -/
theorem execAll_cons_next {i : Instr} {is : List Instr} {s t : State} (h : execAll (i :: is) s = .next t) :
    ∃ u, exec i s = .next u ∧ execAll is u = .next t := by
  rw [execAll] at h
  split at h
  next u hu => exact ⟨u, hu, h⟩
  all_goals cases h

theorem execAll_append {is : List Instr} : ∀ {s t : State}, execAll is s = .next t → ∀ js : List Instr,
    execAll (is ++ js) s = execAll js t := by
  induction is with
  | nil => intro s t h js; rw [Host.Outcome.next.inj h, List.nil_append]
  | cons i is ih =>
    intro s t h js
    obtain ⟨u, hu, hrest⟩ := execAll_cons_next h
    rw [List.cons_append, execAll_cons_of_next hu, ih hrest]

/-- The answers after a run that completed are those given from the state it ended in. -/
theorem drop_responses_append {is : List Instr} : ∀ {s t : State}, execAll is s = .next t → ∀ js : List Instr,
    (responses (is ++ js) s).drop is.length = responses js t := by
  induction is with
  | nil => intro s t h js; rw [Host.Outcome.next.inj h]; rfl
  | cons i is ih =>
    intro s t h js
    obtain ⟨u, hu, hrest⟩ := execAll_cons_next h
    rw [List.cons_append, responses_cons_of_next hu, List.length_cons, List.drop_succ_cons, ih hrest]

theorem exec_init_algOperand (a : Algorithm) (s : State) :
    exec (.init (algOperand a)) s = .next (complete (s.engine.startMessage a) s) := by
  cases a <;> rfl

theorem execAll_updates {a : Algorithm} (bs : List Byte) : ∀ {m : List Byte} {s : State}, InMessage a m s.engine →
    ∃ t, execAll (bs.map Instr.update) s = .next t ∧ InMessage a (m ++ bs) t.engine := by
  induction bs with
  | nil => intro m s h; exact ⟨s, rfl, by rwa [List.append_nil]⟩
  | cons b bs ih =>
    intro m s h
    rw [List.map_cons, execAll_cons_of_next (exec_update_of_ready b h.ready h.absorbed.fill_lt), List.append_cons]
    exact ih (h.updateByte b)

/-- INIT, the UPDATEs of a message and FINALIZE complete from every state and leave the message's hash. -/
theorem execAll_message (a : Algorithm) (m : List Byte) (s : State) :
    ∃ t, execAll (.init (algOperand a) :: m.map Instr.update ++ [.finalize]) s = .next t ∧
      t.engine.ls = .final ∧ t.engine.alg = a ∧ t.engine.h = messageHash a m := by
  have hinit : InMessage a [] (complete (s.engine.startMessage a) s).engine := inMessage_startMessage a s.engine
  obtain ⟨t, hrun, ht⟩ := execAll_updates m hinit
  have hfits := ht.absorbed.fill_lt
  obtain ⟨hls, halg, -⟩ := finish_control t.engine hfits
  refine ⟨complete t.engine.finish t, ?_, hls, halg.trans ht.absorbed.alg, ht.finish_h⟩
  rw [List.cons_append, execAll_cons_of_next (exec_init_algOperand a s), execAll_append hrun,
    execAll_cons_of_next (exec_finalize_of_ready ht.ready hfits)]
  rfl

/-! ## The digest words (43_hasher_commands.md R211) -/

theorem exec_rddig_of_final {s : State} {idx : BitVec 3} (hls : s.engine.ls = .final)
    (hidx : idx.toNat < activeWords s.engine.alg) :
    exec (.rddig idx) s = .next (respondOk (hashWord s.engine.h idx) s) := by
  rw [exec, execRddig, checked_of_legal (by simp [operandLegal, hidx]) (by simp [lifecycleLegal, hls])]

theorem activeWords_le (a : Algorithm) : activeWords a ≤ 8 := by
  cases a <;> decide

/-- In FINAL every RDDIG of a legal index answers its word, and the engine stays as it is. -/
theorem responses_rddigs (ks : List Nat) : ∀ {s : State}, s.engine.ls = .final →
    (∀ k ∈ ks, k < activeWords s.engine.alg) →
    responses (ks.map fun k => .rddig (BitVec.ofNat 3 k)) s = ks.map fun k => some ⟨0, s.engine.h.toList.getD k 0⟩ := by
  induction ks with
  | nil => intro s _ _; rfl
  | cons k ks ih =>
    intro s hls hks
    have hk : k < activeWords s.engine.alg := hks k List.mem_cons_self
    have h8 : k < 8 := hk.trans_le (activeWords_le _)
    have hidx : (BitVec.ofNat 3 k).toNat = k := Nat.mod_eq_of_lt h8
    have hword : hashWord s.engine.h (BitVec.ofNat 3 k) = s.engine.h.toList.getD k 0 := by
      simp [hashWord, hidx, h8]
    rw [List.map_cons, List.map_cons, responses_cons_of_next (exec_rddig_of_final hls (by rwa [hidx])), hword,
      ih (s := respondOk _ s) hls fun j hj => hks j (List.mem_cons_of_mem k hj)]
    rfl

/-- The first entries of a list by their indices. -/
theorem map_range_getD {xs : List Word} {n : Nat} (h : n ≤ xs.length) :
    (List.range n).map (xs.getD · 0) = xs.take n := by
  refine List.ext_getElem (by simp [h]) fun i hi _ => ?_
  have hlt : i < xs.length := by simp at hi; omega
  simp [hlt]

/-- RDDIGALL in FINAL answers the active hash words in order. -/
theorem responses_rddigAllOf {s : State} (hls : s.engine.ls = .final) :
    responses (rddigAllOf s.engine.alg) s =
      (s.engine.h.toList.take (activeWords s.engine.alg)).map fun w => some ⟨0, w⟩ := by
  have hlen : activeWords s.engine.alg ≤ s.engine.h.toList.length := by
    rw [Vector.length_toList]; exact activeWords_le _
  rw [rddigAllOf, responses_rddigs _ hls fun k => List.mem_range.1, ← map_range_getD hlen, List.map_map]
  rfl

/-! ## HASH (30_encoding.md R108) -/

theorem assembleBytes_toNat (m : List Byte) : assembleBytes (m.map BitVec.toNat) = some (m.map Instr.update) := by
  have hrange : (m.map BitVec.toNat).all (· < 256) = true := by
    simp only [List.all_map, List.all_eq_true]
    exact fun b _ => decide_eq_true b.isLt
  rw [assembleBytes, if_pos hrange, List.map_map]
  congr 2
  funext b
  rw [Function.comp_apply, BitVec.ofNat_toNat, BitVec.setWidth_eq]

/-- Settles O40: the run to FINALIZE leaves the message's hash in FINAL, and RDDIGALL answers its words. -/
theorem hashPseudoCommandReturnsDigest : Obligations.HashPseudoCommandReturnsDigest := by
  intro s last a m
  constructor
  · rw [assembleStmt, assembleBytes_toNat]
    rfl
  · obtain ⟨t, hrun, hls, rfl, hhash⟩ := execAll_message a m s
    have hlen : (Instr.init (algOperand t.engine.alg) :: m.map Instr.update ++ [Instr.finalize]).length = m.length + 2 := by
      simp
    rw [← hlen, drop_responses_append hrun, responses_rddigAllOf hls, hhash]

end Sys2Proof.Machine

/-! UPDATE and FINALIZE in READY with FILL above 63 (40_buffer.md R120; assumption log 9). -/

namespace Sys2Proof.Machine

theorem whereFillFits_of_le_fill {s : State} (r : Result) (hf : 64 ≤ s.engine.fill.toNat) :
    whereFillFits s r = .fault .fillBeyondBlock :=
  if_neg (Nat.not_lt.2 hf)

/-- Settles O19: in READY both commands pass their checks, and with FILL above 63 `whereFillFits` then stops them. -/
theorem fillBeyondBlockStops : Obligations.FillBeyondBlockStops := by
  intro s hr hf
  constructor
  · intro b
    rw [exec, execUpdate, checked_of_legal rfl (by simp [lifecycleLegal, hr]), whereFillFits_of_le_fill _ hf]
  · rw [exec, execFinalize, checked_of_legal rfl (by simp [lifecycleLegal, hr]), whereFillFits_of_le_fill _ hf]

end Sys2Proof.Machine

/-! Schedules and the sixteen-word window, for both compressions: a list of words that grows by one word a step
(41_sha1.md R144, 42_sha256.md R176), and the window that holds its last sixteen (41_sha1.md R151, 42_sha256.md R181). -/

namespace Sys2Proof.Machine

/-! ## A growing schedule by its words -/

/-- Word `t` of a schedule given by its states: state `n` holds the words 0 to 15+n. -/
def wordAt (sched : Nat → List Word) (t : Nat) : Word := (sched t).getD t 0

section
variable {sched : Nat → List Word} {next : List Word → Word}
  (hgrow : ∀ n, sched (n + 1) = sched n ++ [next (sched n)]) (hlen : ∀ n, (sched n).length = 16 + n)
include hgrow hlen

/-- A word once in the schedule stays as it is. -/
theorem getD_sched_of_le {n k t : Nat} (hnk : n ≤ k) (ht : t < 16 + n) :
    (sched k).getD t 0 = (sched n).getD t 0 := by
  induction k, hnk using Nat.le_induction with
  | base => rfl
  | succ k hnk ih => rw [hgrow, List.getD_append _ _ _ _ (by rw [hlen]; omega), ih]

theorem getD_sched {n t : Nat} (ht : t < 16 + n) : (sched n).getD t 0 = wordAt sched t := by
  obtain hle | hle := Nat.le_total n t
  · exact (getD_sched_of_le hgrow hlen hle ht).symm
  · exact getD_sched_of_le hgrow hlen hle (by omega)

theorem sched_eq_map_wordAt (n : Nat) : sched n = (List.range (16 + n)).map (wordAt sched) := by
  refine List.ext_getElem (by simp [hlen]) fun t ht _ => ?_
  rw [List.getElem_map, List.getElem_range, ← getD_sched hgrow hlen (hlen n ▸ ht), List.getD_eq_getElem _ _ ht]

/-- From word 16 on, a word is the next one of the schedule before it. -/
theorem wordAt_add_sixteen (n : Nat) : wordAt sched (16 + n) = next (sched n) := by
  rw [← getD_sched hgrow hlen (n := n + 1) (by omega), hgrow, List.getD_append_right _ _ _ _ (hlen n).le, hlen]
  simp

end

/-! ## The window -/

/-- The window at the start of round `t` holds the words `t-16` to `t-1`, and before round 16 the block. -/
def WindowHolds (word : Nat → Word) (t : Nat) (w : Vector Word 16) : Prop :=
  ∀ j, j < max 16 t → t ≤ j + 16 → slot w j = word j

theorem WindowHolds.zero {word : Nat → Word} {w : Vector Word 16} (h : ∀ t (ht : t < 16), word t = w[t]) :
    WindowHolds word 0 w := by
  intro j hj _
  have hj16 : j < 16 := by omega
  simp only [slot, Nat.mod_eq_of_lt hj16, h j hj16]

/-- Before round 16 nothing is overwritten. -/
theorem WindowHolds.keep {word : Nat → Word} {t : Nat} {w : Vector Word 16} (h : WindowHolds word t w) (ht : t < 16) :
    WindowHolds word (t + 1) w :=
  fun j hj _ => h j (by omega) (by omega)

/-- From round 16 on the new word takes the place of the oldest. -/
theorem WindowHolds.write {word : Nat → Word} {t : Nat} {w : Vector Word 16} (h : WindowHolds word t w) (ht : 16 ≤ t) :
    WindowHolds word (t + 1) (setSlot w t (word t)) := by
  intro j hj hjt
  rw [slot_setSlot]
  split
  next heq => rw [show j = t by omega]
  next hne =>
    have hjne : j ≠ t := fun heq => hne (by rw [heq])
    exact h j (by omega) (by omega)

/-- The word at `t-i`. -/
theorem WindowHolds.slot_sub {word : Nat → Word} {t i : Nat} {w : Vector Word 16} (h : WindowHolds word t w)
    (ht : 16 ≤ t) (hi : 1 ≤ i) (hi16 : i ≤ 16) : slot w (t - i) = word (t - i) :=
  h _ (by omega) (by omega)

/-- The slot that round `t` overwrites holds the word at `t-16`. -/
theorem WindowHolds.slot_self {word : Nat → Word} {t : Nat} {w : Vector Word 16} (h : WindowHolds word t w)
    (ht : 16 ≤ t) : slot w t = word (t - 16) := by
  have hplace : t % 16 = (t - 16) % 16 := Nat.mod_eq_sub_mod ht
  simpa only [slot, hplace] using h.slot_sub ht (by decide : 1 ≤ 16) le_rfl

end Sys2Proof.Machine

/-! SHA-1 (41_sha1.md): the round functions, the schedule, the rounds, and the datapath held to them by the words of the
schedule. -/

namespace Sys2Proof.Machine

/-! ## The round functions (R142) -/

theorem getLsbD_ch {k : Nat} (hk : k < 32) (x y z : Word) :
    (ch x y z).getLsbD k = if x.getLsbD k then y.getLsbD k else z.getLsbD k := by
  simp only [ch, BitVec.getLsbD_xor, BitVec.getLsbD_and, BitVec.getLsbD_not, hk, decide_true, Bool.true_and]
  cases x.getLsbD k <;> simp

theorem getLsbD_maj (k : Nat) (x y z : Word) :
    (maj x y z).getLsbD k = decide (2 ≤ (x.getLsbD k).toNat + (y.getLsbD k).toNat + (z.getLsbD k).toNat) := by
  simp only [maj, BitVec.getLsbD_xor, BitVec.getLsbD_and]
  generalize x.getLsbD k = p, y.getLsbD k = q, z.getLsbD k = r
  revert p q r
  decide

theorem getLsbD_parity (k : Nat) (x y z : Word) :
    (parity x y z).getLsbD k =
      decide (((x.getLsbD k).toNat + (y.getLsbD k).toNat + (z.getLsbD k).toNat) % 2 = 1) := by
  simp only [parity, BitVec.getLsbD_xor]
  generalize x.getLsbD k = p, y.getLsbD k = q, z.getLsbD k = r
  revert p q r
  decide

/-- Settles O48: the bit rules of `ch`, `maj` and `parity`, and the ranges of `roundFn1`. -/
theorem roundFunctionsBitwise : Obligations.RoundFunctionsBitwise := by
  intro x y z t
  refine ⟨fun k hk => getLsbD_ch hk x y z, fun k _ => getLsbD_maj k x y z, fun k _ => getLsbD_parity k x y z,
    fun h => ?_, fun h₁ h₂ => ?_, fun h₁ h₂ => ?_, fun h₁ _ => ?_⟩
  · exact if_pos (by omega)
  · rw [roundFn1, if_neg (by omega), if_pos (by omega)]
  · rw [roundFn1, if_neg (by omega), if_neg (by omega), if_pos (by omega)]
  · rw [roundFn1, if_neg (by omega), if_neg (by omega), if_neg (by omega)]

/-! ## The schedule (R143, R144) -/

/-- `W[t]` of a block. -/
def scheduleWord1 (m : Vector Word 16) : Nat → Word := wordAt (schedule1 m)

theorem schedule1_succ (m : Vector Word 16) (n : Nat) :
    schedule1 m (n + 1) = schedule1 m n ++ [nextWord1 (schedule1 m n)] := rfl

theorem schedule1_eq_map (m : Vector Word 16) (n : Nat) :
    schedule1 m n = (List.range (16 + n)).map (scheduleWord1 m) :=
  sched_eq_map_wordAt (schedule1_succ m) (schedule1_length m) n

theorem getD_schedule1 (m : Vector Word 16) {n t : Nat} (ht : t < 16 + n) :
    (schedule1 m n).getD t 0 = scheduleWord1 m t :=
  getD_sched (schedule1_succ m) (schedule1_length m) ht

theorem scheduleWord1_block (m : Vector Word 16) (t : Nat) (ht : t < 16) : scheduleWord1 m t = m[t] := by
  rw [← getD_schedule1 m (n := 0) ht]
  simp [schedule1, ht]

theorem scheduleWord1_recurrence (m : Vector Word 16) {t : Nat} (ht : 16 ≤ t) :
    scheduleWord1 m t = rotl 1 (scheduleWord1 m (t - 3) ^^^ scheduleWord1 m (t - 8) ^^^ scheduleWord1 m (t - 14) ^^^
      scheduleWord1 m (t - 16)) := by
  obtain ⟨n, rfl⟩ := Nat.exists_eq_add_of_le ht
  have hnext : scheduleWord1 m (16 + n) = nextWord1 (schedule1 m n) :=
    wordAt_add_sixteen (schedule1_succ m) (schedule1_length m) n
  rw [hnext, nextWord1, schedule1_length]
  simp (disch := omega) only [getD_schedule1]

/-- Settles O41, with the words `scheduleWord1 m`. -/
theorem sha1ScheduleRecurrence : Obligations.Sha1ScheduleRecurrence :=
  fun m => ⟨scheduleWord1 m, schedule1_eq_map m 64, scheduleWord1_block m, fun _ ht _ => scheduleWord1_recurrence m ht⟩

/-! ## The rounds and the add-back (R140, R145, R146, R150) -/

theorem k1_eq_of_range {t : Nat} (ht : t ≤ 79) :
    k1 t = if t ≤ 19 then 0x5A827999 else if t ≤ 39 then 0x6ED9EBA1 else if t ≤ 59 then 0x8F1BBCDC else 0xCA62C1D6 := by
  rw [k1]
  split
  · rw [show t / 20 = 0 by omega]; rfl
  split
  · rw [show t / 20 = 1 by omega]; rfl
  split
  · rw [show t / 20 = 2 by omega]; rfl
  · rw [show t / 20 = 3 by omega]; rfl

theorem rounds1_concat (ws : List Word) (x : Word) : ∀ (t : Nat) (v : Vector Word 5),
    rounds1 t (ws ++ [x]) v = round1 (t + ws.length) x (rounds1 t ws v) := by
  induction ws with
  | nil => exact fun t v => rfl
  | cons w ws ih =>
    intro t v
    rw [List.cons_append, rounds1, ih, rounds1, List.length_cons, Nat.add_right_comm, Nat.add_assoc]

/-- (a, b, c, d, e) at the start of round `t` of a block, from `hin`. -/
def workingVars1 (hin : Vector Word 5) (m : Vector Word 16) (t : Nat) : Vector Word 5 :=
  rounds1 0 ((List.range t).map (scheduleWord1 m)) hin

theorem workingVars1_succ (hin : Vector Word 5) (m : Vector Word 16) (t : Nat) :
    workingVars1 hin m (t + 1) = round1 t (scheduleWord1 m t) (workingVars1 hin m t) := by
  rw [workingVars1, List.range_succ, List.map_append, List.map_singleton, rounds1_concat, Nat.zero_add,
    List.length_map, List.length_range]
  rfl

theorem compress1_eq (hin : Vector Word 5) (m : Vector Word 16) :
    compress1 hin m = hin.zipWith (· + ·) (workingVars1 hin m 80) := by
  rw [compress1, schedule1_eq_map]
  rfl

theorem zipWith_add_five (x y : Vector Word 5) :
    x.zipWith (· + ·) y = #v[x[0] + y[0], x[1] + y[1], x[2] + y[2], x[3] + y[3], x[4] + y[4]] := by
  ext i hi
  interval_cases i <;> simp

/-- Settles O43, with the working variables `workingVars1`. -/
theorem sha1RoundsAndAddBack : Obligations.Sha1RoundsAndAddBack := by
  intro hin m
  refine ⟨scheduleWord1 m, fun t => (workingVars1 hin m t)[0], fun t => (workingVars1 hin m t)[1],
    fun t => (workingVars1 hin m t)[2], fun t => (workingVars1 hin m t)[3], fun t => (workingVars1 hin m t)[4],
    schedule1_eq_map m 64, ⟨rfl, rfl, rfl, rfl, rfl⟩, fun t ht => ?_, ?_⟩
  · simp only [workingVars1_succ]
    rw [← k1_eq_of_range ht]
    exact ⟨rfl, rfl, rfl, rfl, rfl⟩
  · rw [compress1_eq, zipWith_add_five]

/-! ## The datapath (R151, R152) -/

theorem steps1_succ (n : Nat) : ∀ d : Datapath, d.steps1 (n + 1) = (d.steps1 n).step1 := by
  induction n with
  | zero => exact fun _ => rfl
  | succ n ih => exact fun d => ih d.step1

/-- The window's rule is the schedule's recurrence, so round `t` finds `W[t]` in its slot. -/
theorem WindowHolds.window1_step {m w : Vector Word 16} {t : Nat} (h : WindowHolds (scheduleWord1 m) t w) :
    WindowHolds (scheduleWord1 m) (t + 1) (window1 t w) := by
  rw [window1]
  split
  next hlt => exact h.keep hlt
  next hge =>
    have ht : 16 ≤ t := Nat.le_of_not_lt hge
    rw [h.slot_sub ht (i := 3) (by decide) (by decide), h.slot_sub ht (i := 8) (by decide) (by decide),
      h.slot_sub ht (i := 14) (by decide) (by decide), h.slot_self ht, ← scheduleWord1_recurrence m ht]
    exact h.write ht

/-- What the registers hold at the start of round `t`. -/
structure AtRound1 (hin : Vector Word 5) (m : Vector Word 16) (t : Nat) (d : Datapath) : Prop where
  counter : d.t.toNat = t
  vars : lowFive d.v = workingVars1 hin m t
  window : WindowHolds (scheduleWord1 m) t d.w

theorem atRound1_load1 (h : Vector Word 8) (m : Vector Word 16) (d : Datapath) :
    AtRound1 (lowFive h) m 0 (d.load1 h m) :=
  ⟨rfl, lowFive_setLowFive _ _, WindowHolds.zero (scheduleWord1_block m)⟩

theorem AtRound1.step1 {hin : Vector Word 5} {m : Vector Word 16} {t : Nat} {d : Datapath} (h : AtRound1 hin m t d)
    (ht : t < 80) : AtRound1 hin m (t + 1) d.step1 := by
  obtain ⟨hcounter, hvars, hwindow⟩ := h
  have hword : slot (window1 t d.w) t = scheduleWord1 m t := hwindow.window1_step t (by omega) (by omega)
  refine ⟨?_, ?_, ?_⟩
  · change (d.t + 1).toNat = t + 1
    rw [BitVec.toNat_add, hcounter]
    exact Nat.mod_eq_of_lt (by omega : t + 1 < 2 ^ 7)
  · rw [Datapath.step1, lowFive_setLowFive, hcounter, hword, hvars, workingVars1_succ]
  · rw [Datapath.step1, hcounter]
    exact hwindow.window1_step

theorem AtRound1.steps1 {hin : Vector Word 5} {m : Vector Word 16} {d : Datapath} (h : AtRound1 hin m 0 d) {n : Nat}
    (hn : n ≤ 80) : AtRound1 hin m n (d.steps1 n) := by
  induction n with
  | zero => exact h
  | succ n ih =>
    rw [steps1_succ]
    exact (ih (by omega)).step1 hn

/-- Settles O46: after 80 steps V[0..4] are the working variables of COMPRESS1. -/
theorem sha1DatapathComputesCompress1 : Obligations.Sha1DatapathComputesCompress1 := by
  intro h m d
  rw [compress1_eq, Datapath.addBack1, ((atRound1_load1 h m d).steps1 le_rfl).vars]

end Sys2Proof.Machine

/-! SHA-256 (42_sha256.md): the schedule, the rounds, and the datapath held to them by the words of the schedule; the constant
tables as roots of primes. -/

namespace Sys2Proof.Machine

/-! ## The schedule (R175, R176) -/

/-- `W[t]` of a block. -/
def scheduleWord256 (m : Vector Word 16) : Nat → Word := wordAt (schedule256 m)

theorem schedule256_succ (m : Vector Word 16) (n : Nat) :
    schedule256 m (n + 1) = schedule256 m n ++ [nextWord256 (schedule256 m n)] := rfl

theorem schedule256_eq_map (m : Vector Word 16) (n : Nat) :
    schedule256 m n = (List.range (16 + n)).map (scheduleWord256 m) :=
  sched_eq_map_wordAt (schedule256_succ m) (schedule256_length m) n

theorem getD_schedule256 (m : Vector Word 16) {n t : Nat} (ht : t < 16 + n) :
    (schedule256 m n).getD t 0 = scheduleWord256 m t :=
  getD_sched (schedule256_succ m) (schedule256_length m) ht

theorem scheduleWord256_block (m : Vector Word 16) (t : Nat) (ht : t < 16) : scheduleWord256 m t = m[t] := by
  rw [← getD_schedule256 m (n := 0) ht]
  simp [schedule256, ht]

theorem scheduleWord256_recurrence (m : Vector Word 16) {t : Nat} (ht : 16 ≤ t) :
    scheduleWord256 m t = smallSigma1 (scheduleWord256 m (t - 2)) + scheduleWord256 m (t - 7) +
      smallSigma0 (scheduleWord256 m (t - 15)) + scheduleWord256 m (t - 16) := by
  obtain ⟨n, rfl⟩ := Nat.exists_eq_add_of_le ht
  have hnext : scheduleWord256 m (16 + n) = nextWord256 (schedule256 m n) :=
    wordAt_add_sixteen (schedule256_succ m) (schedule256_length m) n
  rw [hnext, nextWord256, schedule256_length]
  simp (disch := omega) only [getD_schedule256]

/-- Settles O42, with the words `scheduleWord256 m`. -/
theorem sha256ScheduleRecurrence : Obligations.Sha256ScheduleRecurrence :=
  fun m => ⟨scheduleWord256 m, schedule256_eq_map m 48, scheduleWord256_block m,
    fun _ ht _ => scheduleWord256_recurrence m ht⟩

/-! ## The rounds and the add-back (R177, R178, R180) -/

/-- (a, …, h) at the start of round `t` of a block, from `hin`. -/
def workingVars256 (hin : Vector Word 8) (m : Vector Word 16) : Nat → Vector Word 8
  | 0 => hin
  | t + 1 => round256 t (scheduleWord256 m t) (workingVars256 hin m t)

/-- `n` rounds over the schedule's words from `t` on lead from round `t` to round `t+n`. -/
theorem rounds256_workingVars256 (hin : Vector Word 8) (m : Vector Word 16) (n : Nat) : ∀ t : Nat,
    rounds256 t ((List.range' t n).map (scheduleWord256 m)) (workingVars256 hin m t) = workingVars256 hin m (t + n) := by
  induction n with
  | zero => exact fun t => rfl
  | succ n ih =>
    intro t
    rw [List.range'_succ, List.map_cons, rounds256, ← workingVars256, ih, Nat.add_right_comm, Nat.add_assoc]

theorem compress256_eq (hin : Vector Word 8) (m : Vector Word 16) :
    compress256 hin m = hin.zipWith (· + ·) (workingVars256 hin m 64) := by
  rw [compress256, schedule256_eq_map, List.range_eq_range']
  exact congrArg _ (rounds256_workingVars256 hin m 64 0)

theorem zipWith_add_eight (x y : Vector Word 8) :
    x.zipWith (· + ·) y = #v[x[0] + y[0], x[1] + y[1], x[2] + y[2], x[3] + y[3],
      x[4] + y[4], x[5] + y[5], x[6] + y[6], x[7] + y[7]] := by
  ext i hi
  interval_cases i <;> simp

/-- Settles O44, with the working variables `workingVars256`. -/
theorem sha256RoundsAndAddBack : Obligations.Sha256RoundsAndAddBack := by
  intro hin m
  refine ⟨scheduleWord256 m, fun t => (workingVars256 hin m t)[0], fun t => (workingVars256 hin m t)[1],
    fun t => (workingVars256 hin m t)[2], fun t => (workingVars256 hin m t)[3], fun t => (workingVars256 hin m t)[4],
    fun t => (workingVars256 hin m t)[5], fun t => (workingVars256 hin m t)[6], fun t => (workingVars256 hin m t)[7],
    schedule256_eq_map m 48, ⟨rfl, rfl, rfl, rfl, rfl, rfl, rfl, rfl⟩, fun t _ => ?_, ?_⟩
  · exact ⟨_, _, rfl, rfl, rfl, rfl, rfl, rfl, rfl, rfl, rfl, rfl⟩
  · rw [compress256_eq, zipWith_add_eight]

/-! ## The datapath (R181, R182) -/

/-- The window's rule is the schedule's recurrence, so round `t` finds `W[t]` in its slot. -/
theorem WindowHolds.window256_step {m w : Vector Word 16} {t : Nat} (h : WindowHolds (scheduleWord256 m) t w) :
    WindowHolds (scheduleWord256 m) (t + 1) (window256 t w) := by
  rw [window256]
  split
  next hlt => exact h.keep hlt
  next hge =>
    have ht : 16 ≤ t := Nat.le_of_not_lt hge
    rw [h.slot_sub ht (i := 2) (by decide) (by decide), h.slot_sub ht (i := 7) (by decide) (by decide),
      h.slot_sub ht (i := 15) (by decide) (by decide), h.slot_self ht, ← scheduleWord256_recurrence m ht]
    exact h.write ht

/-- What the registers hold at the start of round `t`. -/
structure AtRound256 (hin : Vector Word 8) (m : Vector Word 16) (t : Nat) (d : Datapath) : Prop where
  counter : d.t.toNat = t
  vars : d.v = workingVars256 hin m t
  window : WindowHolds (scheduleWord256 m) t d.w

theorem atRound256_load256 (h : Vector Word 8) (m : Vector Word 16) : AtRound256 h m 0 (Datapath.load256 h m) :=
  ⟨rfl, rfl, WindowHolds.zero (scheduleWord256_block m)⟩

theorem AtRound256.step256 {hin : Vector Word 8} {m : Vector Word 16} {t : Nat} {d : Datapath}
    (h : AtRound256 hin m t d) (ht : t < 64) : AtRound256 hin m (t + 1) d.step256 := by
  obtain ⟨hcounter, hvars, hwindow⟩ := h
  have hword : slot (window256 t d.w) t = scheduleWord256 m t := hwindow.window256_step t (by omega) (by omega)
  refine ⟨?_, ?_, ?_⟩
  · change (d.t + 1).toNat = t + 1
    rw [BitVec.toNat_add, hcounter]
    exact Nat.mod_eq_of_lt (by omega : t + 1 < 2 ^ 7)
  · rw [Datapath.step256, hcounter, hword, hvars, workingVars256]
  · rw [Datapath.step256, hcounter]
    exact hwindow.window256_step

theorem AtRound256.steps256 {hin : Vector Word 8} {m : Vector Word 16} (n : Nat) : ∀ {t : Nat} {d : Datapath},
    AtRound256 hin m t d → t + n ≤ 64 → AtRound256 hin m (t + n) (d.steps256 n) := by
  induction n with
  | zero => exact fun h _ => h
  | succ n ih =>
    intro t d h hn
    rw [← Nat.succ_add_eq_add_succ]
    exact ih (h.step256 (by omega)) (by omega)

/-- Settles O47: after 64 steps V holds the working variables of COMPRESS256. -/
theorem sha256DatapathComputesCompress256 : Obligations.Sha256DatapathComputesCompress256 := by
  intro h m
  rw [compress256_eq, Datapath.addBack256, ((atRound256_load256 h m).steps256 64 le_rfl).vars]

/-! ## The constant tables (R170, R171; 41_sha1.md R140) -/

/-- The first 64 primes. -/
def primes64 : List Nat := [
  2, 3, 5, 7, 11, 13, 17, 19, 23, 29, 31, 37, 41, 43, 47, 53, 59, 61, 67, 71, 73, 79, 83, 89, 97, 101, 103, 107, 109, 113,
  127, 131, 137, 139, 149, 151, 157, 163, 167, 173, 179, 181, 191, 193, 197, 199, 211, 223, 227, 229, 233, 239, 241, 251,
  257, 263, 269, 271, 277, 281, 283, 293, 307, 311]

/-- Below 18² a composite number has a divisor below 18. -/
theorem prime_iff_trialDivision {n : Nat} (hn : n < 324) :
    n.Prime ↔ 2 ≤ n ∧ ∀ d < 18, 2 ≤ d → d * d ≤ n → n % d ≠ 0 := by
  simp only [Nat.prime_def_le_sqrt, Nat.le_sqrt, ne_eq, ← Nat.dvd_iff_mod_eq_zero]
  exact and_congr_right fun _ => ⟨fun h d _ hd hle => h d hd hle, fun h d hd hle => h d (by nlinarith) hd hle⟩

theorem trialDivision_iff_mem_primes64 :
    ∀ n < 312, (2 ≤ n ∧ ∀ d < 18, 2 ≤ d → d * d ≤ n → n % d ≠ 0) ↔ n ∈ primes64 := by decide +kernel

theorem prime_iff_mem_primes64 (n : Nat) (hn : n < 312) : n.Prime ↔ n ∈ primes64 :=
  (prime_iff_trialDivision (by omega)).trans (trialDivision_iff_mem_primes64 n hn)

/-- Word `t` is the fraction of the cube root to 32 places; `i` is its whole part. -/
theorem k256_cubeRoot : ∀ t < 64, ∃ i < 7,
    (i * 2 ^ 32 + (k256 t).toNat) ^ 3 ≤ primes64.getD t 0 * 2 ^ 96 ∧
    primes64.getD t 0 * 2 ^ 96 < (i * 2 ^ 32 + (k256 t).toNat + 1) ^ 3 := by decide +kernel

/-- The same for the square roots. -/
theorem romIV256_squareRoot : ∀ t < 8, ∃ i < 5,
    (i * 2 ^ 32 + (romIV256.getD t 0).toNat) ^ 2 ≤ primes64.getD t 0 * 2 ^ 64 ∧
    primes64.getD t 0 * 2 ^ 64 < (i * 2 ^ 32 + (romIV256.getD t 0).toNat + 1) ^ 2 := by decide

theorem romK1_squareRoot : ∀ t < 4, (romK1.getD t 0).toNat ^ 2 ≤ [2, 3, 5, 10].getD t 0 * 2 ^ 60 ∧
    [2, 3, 5, 10].getD t 0 * 2 ^ 60 < ((romK1.getD t 0).toNat + 1) ^ 2 := by decide

/-- Settles O45, with the primes `primes64`. -/
theorem romWordsAreRoots : Obligations.RomWordsAreRoots :=
  ⟨primes64, rfl, prime_iff_mem_primes64, by decide, k256_cubeRoot, romIV256_squareRoot, romK1_squareRoot⟩

end Sys2Proof.Machine

/-! The commands one at a time (43_hasher_commands.md R200 to R209): what each answers and leaves in the engine. -/

namespace Sys2Proof.Machine

/-- What a command does once its checks have passed. -/
def perform (i : Instr) (s : State) : Result :=
  match i with
  | .nop => .next (respondOk 0 s)
  | .init alg => .next (complete (s.engine.startMessage (algorithmOf alg)) s)
  | .update b => whereFillFits s (.next (complete (s.engine.updateByte b) s))
  | .finalize => whereFillFits s (.next (complete s.engine.finish s))
  | .rddig idx => .next (respondOk (hashWord s.engine.h idx) s)
  | .rdstat => .next (respondOk (statusWord s.engine) s)
  | .rdlen hi => .next (respondOk (lenView hi s.engine.len) s)

theorem exec_eq_checked (i : Instr) (s : State) : exec i s = checked i s (perform i) := by
  cases i <;> rfl

theorem exec_of_legal {i : Instr} {s : State} (h : operandLegal i s.engine.alg = true)
    (hl : lifecycleLegal i s.engine.ls = true) : exec i s = perform i s := by
  rw [exec_eq_checked, checked_of_legal h hl]

theorem raise_sequenceError (s : State) : raise .sequenceError s = erred 1 s := rfl

theorem exec_of_operand_illegal {i : Instr} {s : State} (h : operandLegal i s.engine.alg = false) :
    exec i s = .next (erred 2 s) := by
  rw [exec_eq_checked, checked_of_operand_illegal h, raise_illegalCommand]

/-- A command with a legal operand that its lifecycle state does not allow. -/
theorem exec_of_out_of_sequence {i : Instr} {s : State} (h : operandLegal i s.engine.alg = true)
    (hl : lifecycleLegal i s.engine.ls = false) : exec i s = .next (erred 1 s) := by
  rw [exec_eq_checked, checked_of_out_of_sequence h hl, raise_sequenceError]

/-- Settles O5: a command word that decodes is performed as its command. -/
theorem stepPerformsDecodedCommand : Obligations.StepPerformsDecodedCommand := by
  intro s cmd rest i hin hd
  rw [step_command hin, performWord_of_decode_ok hd]

/-! ## NOP and INIT (R201, R202) -/

/-- Settles O8: NOP passes both checks in every state. -/
theorem nopChangesNothing : Obligations.NopChangesNothing := by
  intro s
  exact exec_of_legal rfl rfl

theorem initialHash_sha1 :
    initialHash .sha1 = #v[0x67452301, 0xEFCDAB89, 0x98BADCFE, 0x10325476, 0xC3D2E1F0, 0, 0, 0] := rfl

theorem initialHash_sha256 :
    initialHash .sha256 =
      #v[0x6a09e667, 0xbb67ae85, 0x3c6ef372, 0xa54ff53a, 0x510e527f, 0x9b05688c, 0x1f83d9ab, 0x5be0cd19] := rfl

theorem exec_init_of_legal {alg : BitVec 4} (h : alg.toNat < 2) (s : State) :
    exec (.init alg) s = .next (complete (s.engine.startMessage (algorithmOf alg)) s) := by
  rw [exec_of_legal (i := .init alg) (decide_eq_true h) rfl, perform]

/-- Settles O9: a legal INIT starts a message with the initial hash words of its algorithm. -/
theorem initStartsMessage : Obligations.InitStartsMessage := by
  intro s
  rw [← initialHash_sha1, ← initialHash_sha256]
  exact ⟨exec_init_algOperand .sha1 s, exec_init_algOperand .sha256 s⟩

/-! ## UPDATE (R203) -/

theorem lovfAfterUpdate_eq (lovf : Bool) (len : BitVec 64) :
    lovfAfterUpdate lovf len = (lovf || decide (2 ^ 61 ≤ len.toNat + 1)) := by
  rw [lovfAfterUpdate]
  congr 2
  exact propext (by omega)

theorem setIfInBounds_eq_set (buf : Vector Byte 64) {k : Nat} (h : k < 64) (b : Byte) :
    buf.setIfInBounds k b = buf.set k b := by
  refine Vector.ext fun i hi => ?_
  rw [Vector.getElem_setIfInBounds hi, Vector.getElem_set]

/-- Below the block's last byte UPDATE buffers its byte and counts it. -/
theorem updateByte_of_fill_lt (b : Byte) (e : Engine) (h : e.fill.toNat < 63) :
    e.updateByte b =
      { e with
        buf := e.buf.set e.fill.toNat b
        fill := e.fill + 1
        len := e.len + 1
        lovf := e.lovf || decide (2 ^ 61 ≤ e.len.toNat + 1) } := by
  have hput : e.updateByte b = { e with lovf := lovfAfterUpdate e.lovf e.len, len := e.len + 1 }.put b :=
    absorb_of_fill_lt _ b h
  rw [hput, Engine.put, lovfAfterUpdate_eq, setIfInBounds_eq_set _ (Nat.lt_succ_of_lt h)]

/-- Settles O11: UPDATE in READY completes, and below FILL 63 its effect is `updateByte_of_fill_lt`. -/
theorem updateBuffersByte : Obligations.UpdateBuffersByte := by
  intro s b hr hf
  rw [exec_update_of_ready b hr (Nat.lt_succ_of_lt hf), updateByte_of_fill_lt b _ hf]
  rfl

theorem compressInto_sha1_high_words (h : Vector Word 8) (m : Vector Word 16) :
    (compressInto .sha1 h m)[5] = h[5] ∧ (compressInto .sha1 h m)[6] = h[6] ∧ (compressInto .sha1 h m)[7] = h[7] :=
  ⟨rfl, rfl, rfl⟩

theorem lowFive_compressInto_sha1 (h : Vector Word 8) (m : Vector Word 16) :
    lowFive (compressInto .sha1 h m) = compress1 (lowFive h) m :=
  lowFive_setLowFive _ h

/-- The byte that completes a block: it is compressed from BUF with that byte in its last place. -/
theorem absorb_h_of_fill_eq (e : Engine) (b : Byte) (h : e.fill.toNat = 63) :
    (e.absorb b).h = compressInto e.alg e.h (blockWords (e.absorb b).buf) := by
  rw [absorb_of_fill_eq e b h]
  rfl

theorem absorb_fill_of_fill_eq (e : Engine) (b : Byte) (h : e.fill.toNat = 63) : (e.absorb b).fill = 0 := by
  rw [absorb_of_fill_eq e b h]

/-- Settles O12: UPDATE in READY absorbs its byte, which with FILL 63 completes the block. -/
theorem updateDrainsFullBlock : Obligations.UpdateDrainsFullBlock := by
  intro s b hr hf
  obtain ⟨hls, halg, hlen, hlovf, herr, hcode⟩ := updateByte_control b s.engine
  have hbuf : (s.engine.updateByte b).buf = s.engine.buf.set 63 b := by
    rw [updateByte_buf, hf, setIfInBounds_eq_set _ (by decide)]
  have hh : (s.engine.updateByte b).h = compressInto s.engine.alg s.engine.h (blockWords (s.engine.buf.set 63 b)) :=
    hbuf ▸ absorb_h_of_fill_eq _ b hf
  refine ⟨_, exec_update_of_ready b hr (by omega), rfl, rfl, hbuf, absorb_fill_of_fill_eq _ b hf, hlen,
    hlovf.trans (lovfAfterUpdate_eq _ _), hls.trans hr, halg, herr, hcode, fun ha => ?_, fun ha => ?_⟩
  · rw [complete_engine, hh, ha, compressInto]
  · rw [complete_engine, hh, ha]
    obtain ⟨h5, h6, h7⟩ := compressInto_sha1_high_words s.engine.h (blockWords (s.engine.buf.set 63 b))
    exact ⟨h5, h6, h7, lowFive_compressInto_sha1 _ _⟩

/-! ## Commands out of sequence (R200) and RDDIG (R208) -/

theorem exec_rddig_of_index_illegal {s : State} {idx : BitVec 3} (hidx : activeWords s.engine.alg ≤ idx.toNat) :
    exec (.rddig idx) s = .next (erred 2 s) :=
  exec_of_operand_illegal (decide_eq_false (Nat.not_lt.2 hidx))

theorem exec_rddig_of_not_final {s : State} {idx : BitVec 3} (hidx : idx.toNat < activeWords s.engine.alg)
    (hls : s.engine.ls ≠ .final) : exec (.rddig idx) s = .next (erred 1 s) :=
  exec_of_out_of_sequence (decide_eq_true hidx) (decide_eq_false hls)

/-- Settles O18: each of the three commands fails its lifecycle check, its operand being legal. -/
theorem outOfSequenceCommandsFail : Obligations.OutOfSequenceCommandsFail := by
  intro s
  refine ⟨fun hls => ⟨fun b => ?_, ?_⟩, fun hls idx hidx => exec_rddig_of_not_final hidx hls⟩
  · exact exec_of_out_of_sequence (i := .update b) rfl (decide_eq_false hls)
  · exact exec_of_out_of_sequence (i := .finalize) rfl (decide_eq_false hls)

theorem activeWords_eq (a : Algorithm) : activeWords a = if a = .sha1 then 5 else 8 := by
  cases a <;> rfl

theorem getElem?_eq_hashWord (h : Vector Word 8) (idx : BitVec 3) : h[idx.toNat]? = some (hashWord h idx) :=
  Vector.getElem?_eq_getElem idx.isLt

/-- Settles O15: the index is checked before the lifecycle state, and a legal index in FINAL names a word of H. -/
theorem rddigReadsDigestWord : Obligations.RddigReadsDigestWord := by
  rintro s idx _ rfl
  rw [← activeWords_eq]
  refine ⟨exec_rddig_of_index_illegal, exec_rddig_of_not_final, fun hidx hls w hw => ?_⟩
  obtain rfl : hashWord s.engine.h idx = w := Option.some.inj ((getElem?_eq_hashWord _ _).symm.trans hw)
  exact exec_rddig_of_final hls hidx

/-! ## RDSTAT (R209) -/

/-- The fields of the STATUS word (10_state.md R29). -/
theorem statusWord_fields (e : Engine) :
    (statusWord e).extractLsb' 0 2 = e.ls.code ∧ (statusWord e).extractLsb' 2 1 = e.alg.code ∧
    (statusWord e).extractLsb' 3 1 = BitVec.ofBool e.err ∧ (statusWord e).extractLsb' 4 2 = e.errcode ∧
    (statusWord e).extractLsb' 6 1 = BitVec.ofBool e.lovf ∧ (statusWord e).extractLsb' 7 1 = 0 ∧
    (statusWord e).extractLsb' 8 6 = e.fill.extractLsb' 0 6 ∧ (statusWord e).extractLsb' 14 18 = 0 := by
  unfold statusWord
  refine ⟨?_, ?_, ?_, ?_, ?_, ?_, ?_, ?_⟩ <;>
    simp (disch := decide) only [BitVec.extractLsb'_append_eq_of_le, BitVec.extractLsb'_append_eq_right,
      Nat.reduceSub, BitVec.extractLsb'_eq_self]

theorem ofBool_eq_ite (b : Bool) : BitVec.ofBool b = if b then 1 else 0 := by
  cases b <;> rfl

/-- Settles O16: the answer is the STATUS word, whose fields are `statusWord_fields`. -/
theorem rdstatReadsStatusFields : Obligations.RdstatReadsStatusFields := by
  intro s
  obtain ⟨hls, halg, herr, hcode, hlovf, hbit7, hfill, htop⟩ := statusWord_fields s.engine
  refine ⟨statusWord s.engine, ?_, hls, halg, herr.trans (ofBool_eq_ite _), hcode, hlovf.trans (ofBool_eq_ite _),
    hbit7, ?_, htop⟩
  · exact exec_of_legal rfl rfl
  · rw [hfill, BitVec.extractLsb'_toNat, Nat.shiftRight_zero]

end Sys2Proof.Machine

/-! FINALIZE's blocks (43_hasher_commands.md R204 to R207), a message with reads between its bytes (R213), and the digest the
RDDIGs answer (R211, 20_memory.md R64). -/

namespace Sys2Proof.Machine

/-! ## Bytes absorbed up to the end of a block (40_buffer.md R120) -/

/-- BUF holds the bytes `p` of the block begun. -/
structure Buffering (p : List Byte) (e : Engine) : Prop where
  fill : e.fill.toNat = p.length
  bytes : ∀ i, i < p.length → bufByte e.buf i = p.getD i 0

theorem Buffering.put {p : List Byte} {e : Engine} (h : Buffering p e) (hp : p.length < 64) (b : Byte) {i : Nat}
    (hi : i < p.length + 1) : bufByte (e.put b).buf i = (p ++ [b]).getD i 0 := by
  rw [put_buf, bufByte_setIfInBounds, h.fill]
  obtain rfl | hlt : i = p.length ∨ i < p.length := by omega
  · rw [if_pos ⟨rfl, hp⟩, List.getD_append_right _ _ _ _ (Nat.le_refl _), Nat.sub_self]
    rfl
  · rw [if_neg fun hn => hlt.ne hn.1, h.bytes i hlt, List.getD_append _ _ _ _ hlt]

theorem Buffering.absorb {p : List Byte} {e : Engine} (h : Buffering p e) (hp : p.length < 63) (b : Byte) :
    Buffering (p ++ [b]) (e.absorb b) := by
  have hlen : (p ++ [b]).length = p.length + 1 := List.length_append
  have hfill := h.fill
  constructor
  · rw [absorb_fill e b (by omega), hfill, hlen, Nat.mod_eq_of_lt (by omega)]
  · rw [absorb_of_fill_lt e b (by omega), hlen]
    exact fun i hi => h.put (by omega) b hi

/-- Bytes absorbed have filled a block, which is compressed and which BUF still holds. -/
structure BlockDone (e : Engine) (block : Vector Byte 64) (e' : Engine) : Prop where
  alg : e'.alg = e.alg
  hash : e'.h = compressInto e.alg e.h (blockWords block)
  buf : e'.buf = block
  fill : e'.fill = 0

theorem BlockDone.buffering_nil {e e' : Engine} {block : Vector Byte 64} (h : BlockDone e block e') : Buffering [] e' :=
  ⟨congrArg BitVec.toNat h.fill, fun i hi => absurd hi (Nat.not_lt_zero i)⟩

theorem Buffering.absorb_last {p : List Byte} {e : Engine} (h : Buffering p e) (hp : p.length = 63) (b : Byte) :
    BlockDone e (blockAt (p ++ [b]) 0) (e.absorb b) := by
  have hfull : e.fill.toNat = 63 := h.fill.trans hp
  have hbuf : (e.absorb b).buf = blockAt (p ++ [b]) 0 := bufByte_ext fun i hi => by
    rw [absorb_buf, ← put_buf, h.put (by omega) b (by omega), bufByte_blockAt _ _ hi, Nat.mul_zero, Nat.zero_add]
  exact ⟨absorb_alg e b, hbuf ▸ absorb_h_of_fill_eq e b hfull, hbuf, absorb_fill_of_fill_eq e b hfull⟩

/-- Bytes that complete the block begun. -/
theorem Buffering.absorbAll (bs : List Byte) : ∀ {p : List Byte} {e : Engine}, Buffering p e → p.length < 64 →
    p.length + bs.length = 64 → BlockDone e (blockAt (p ++ bs) 0) (e.absorbAll bs) := by
  induction bs with
  | nil => exact fun _ hp hlen => absurd hlen hp.ne
  | cons b bs ih =>
    intro p e h _ hlen
    rw [List.length_cons] at hlen
    obtain hp | hp : p.length = 63 ∨ p.length < 63 := by omega
    · obtain rfl : bs = [] := List.length_eq_zero_iff.1 (by omega)
      exact h.absorb_last hp b
    · have happ : (p ++ [b]).length = p.length + 1 := List.length_append
      obtain ⟨halg, hhash, hbuf, hfill⟩ := ih (h.absorb hp b) (by omega) (by omega)
      rw [absorb_alg] at halg hhash
      rw [absorb_h_of_fill_lt e b (h.fill.trans_lt hp)] at hhash
      rw [List.append_cons, absorbAll_cons]
      exact ⟨halg, hhash, hbuf, hfill⟩

theorem blockAt_one_append {p : List Byte} (q : List Byte) (h : p.length = 64) : blockAt (p ++ q) 1 = blockAt q 0 := by
  refine bufByte_ext fun i hi => ?_
  rw [bufByte_blockAt _ _ hi, bufByte_blockAt _ _ hi, List.getD_append_right _ _ _ _ (by omega), h]
  congr 1
  omega

/-- Bytes that complete the block begun and one more. -/
theorem Buffering.absorbAll_two {p bs : List Byte} {e : Engine} (h : Buffering p e) (hp : p.length < 64)
    (hlen : p.length + bs.length = 128) :
    ∃ e₁, BlockDone e (blockAt (p ++ bs) 0) e₁ ∧ BlockDone e₁ (blockAt (p ++ bs) 1) (e.absorbAll bs) := by
  obtain ⟨xs, ys, rfl, hxs⟩ : ∃ xs ys, bs = xs ++ ys ∧ xs.length = 64 - p.length :=
    ⟨_, _, (List.take_append_drop (64 - p.length) bs).symm, by rw [List.length_take]; omega⟩
  have hfirst : (p ++ xs).length = 64 := by rw [List.length_append]; omega
  rw [List.length_append] at hlen
  have hdone := h.absorbAll xs hp (by omega)
  rw [← List.append_assoc, blockAt_append ys hfirst.ge, blockAt_one_append ys hfirst, absorbAll_append]
  exact ⟨e.absorbAll xs, hdone, hdone.buffering_nil.absorbAll ys (by decide) (by rw [List.length_nil]; omega)⟩

/-! ## FINALIZE (R204 to R207) -/

theorem length_take_buf (e : Engine) (h : e.fill.toNat < 64) : (e.buf.toList.take e.fill.toNat).length = e.fill.toNat := by
  rw [List.length_take, Vector.length_toList, Nat.min_eq_left h.le]

theorem buffering_take_buf (e : Engine) (h : e.fill.toNat < 64) : Buffering (e.buf.toList.take e.fill.toNat) e := by
  refine ⟨(length_take_buf e h).symm, fun i hi => ?_⟩
  rw [length_take_buf e h] at hi
  have h64 : i < 64 := by omega
  simp [bufByte_eq_getElem, hi, h64]

/-- The bytes in BUF and those FINALIZE absorbs after them. -/
def finalTail (e : Engine) : List Byte := e.buf.toList.take e.fill.toNat ++ padBytes e.fill.toNat e.len

theorem finalTail_eq {e : Engine} {z : Nat} (h : e.fill.toNat < 64)
    (hz : z = if e.fill.toNat ≤ 55 then 55 - e.fill.toNat else 119 - e.fill.toNat) :
    finalTail e = e.buf.toList.take e.fill.toNat ++ 0x80 :: List.replicate z 0 ++ bigEndian64 (e.len * 8) := by
  have hzeros : (119 - e.fill.toNat) % 64 = z := by split at hz <;> omega
  rw [finalTail, padBytes, hzeros, suffixBytes_eq_bigEndian64, bitLength, List.append_assoc]

theorem finish_one_block (e : Engine) (h : e.fill.toNat ≤ 55) :
    e.finish.h = compressInto e.alg e.h (blockWords (blockAt (finalTail e) 0)) ∧
    e.finish.buf = blockAt (finalTail e) 0 := by
  have hfits : e.fill.toNat < 64 := by omega
  obtain ⟨-, hhash, hbuf, -⟩ := (buffering_take_buf e hfits).absorbAll (padBytes e.fill.toNat e.len)
    (by rwa [length_take_buf e hfits]) (by rw [length_take_buf e hfits, padBytes_length]; omega)
  rw [finish_eq_absorbAll e hfits]
  exact ⟨hhash, hbuf⟩

theorem finish_two_blocks (e : Engine) (h : 56 ≤ e.fill.toNat) (hfits : e.fill.toNat < 64) :
    e.finish.h = compressInto e.alg (compressInto e.alg e.h (blockWords (blockAt (finalTail e) 0)))
      (blockWords (blockAt (finalTail e) 1)) ∧
    e.finish.buf = blockAt (finalTail e) 1 := by
  obtain ⟨e₁, ⟨halg₁, hhash₁, -, -⟩, ⟨-, hhash₂, hbuf₂, -⟩⟩ :=
    (buffering_take_buf e hfits).absorbAll_two (bs := padBytes e.fill.toNat e.len)
      (by rwa [length_take_buf e hfits]) (by rw [length_take_buf e hfits, padBytes_length]; omega)
  rw [halg₁, hhash₁] at hhash₂
  rw [finish_eq_absorbAll e hfits]
  exact ⟨hhash₂, hbuf₂⟩

/-- Settles O14: what FINALIZE absorbs completes the block in BUF, by `finish_one_block`, or that block and one more, by
`finish_two_blocks`. -/
theorem finalizeCompressesPaddedTail : Obligations.FinalizeCompressesPaddedTail := by
  rintro s f z tail hr rfl hfits hz htail
  obtain ⟨hls, halg, hlen, hlovf, herr, hcode⟩ := finish_control s.engine hfits
  rw [← finalTail_eq hfits hz] at htail
  subst htail
  exact ⟨_, exec_finalize_of_ready hr hfits, rfl, rfl, hls, finish_fill _ hfits, hlen, halg, hlovf, herr, hcode,
    finish_one_block _, fun h => finish_two_blocks _ h hfits⟩

/-! ## A message with reads between its bytes (R213) -/

/-- NOP, RDSTAT and RDLEN complete in every state and leave the engine. -/
theorem exec_interleavable {i : Instr} (h : isInterleavable i = true) (s : State) :
    exec i s = .next (respondOk (readData s.engine i) s) := by
  cases i with
  | nop | rdstat | rdlen _ => rfl
  | init _ | update _ | finalize | rddig _ => cases h

theorem messageBytes_of_isInterleavable {i : Instr} (h : isInterleavable i = true) : messageBytes i = [] := by
  cases i with
  | nop | init _ | finalize | rddig _ | rdstat | rdlen _ => rfl
  | update _ => cases h

/-- A command between INIT and FINALIZE completes and adds its bytes to the message. -/
theorem exec_messageCommand {a : Algorithm} {m : List Byte} {i : Instr} {s : State} (hi : isMessageCommand i)
    (h : InMessage a m s.engine) : ∃ t, exec i s = .next t ∧ InMessage a (m ++ messageBytes i) t.engine := by
  obtain hread | ⟨b, rfl⟩ := hi
  · refine ⟨_, exec_interleavable hread s, ?_⟩
    rwa [messageBytes_of_isInterleavable hread, List.append_nil]
  · exact ⟨_, exec_update_of_ready b h.ready h.absorbed.fill_lt, h.updateByte b⟩

theorem execAll_messageCommands {a : Algorithm} (is : List Instr) : ∀ {m : List Byte} {s : State},
    (∀ i ∈ is, isMessageCommand i) → InMessage a m s.engine →
    ∃ t, execAll is s = .next t ∧ InMessage a (m ++ is.flatMap messageBytes) t.engine := by
  induction is with
  | nil => exact fun _ h => ⟨_, rfl, by rwa [List.flatMap_nil, List.append_nil]⟩
  | cons i is ih =>
    intro m s his h
    obtain ⟨t, hexec, ht⟩ := exec_messageCommand (his i List.mem_cons_self) h
    rw [execAll_cons_of_next hexec, List.flatMap_cons, ← List.append_assoc]
    exact ih (fun j hj => his j (List.mem_cons_of_mem i hj)) ht

/-- Settles O38: the commands after INIT build up the message, whose hash FINALIZE leaves. -/
theorem messageDigestIgnoresInterleaving : Obligations.MessageDigestIgnoresInterleaving := by
  rintro s a is _ his rfl
  have hinit : InMessage a [] (complete (s.engine.startMessage a) s).engine := inMessage_startMessage a s.engine
  obtain ⟨t, hrun, ht⟩ := execAll_messageCommands is his hinit
  have hfits := ht.absorbed.fill_lt
  obtain ⟨hls, halg, hlen, -⟩ := finish_control t.engine hfits
  refine ⟨complete t.engine.finish t, ?_, hls, halg.trans ht.absorbed.alg, ht.finish_h, hlen.trans ht.len⟩
  rw [List.cons_append, execAll_cons_of_next (exec_init_algOperand a s), execAll_append hrun,
    execAll_cons_of_next (exec_finalize_of_ready ht.ready hfits)]
  rfl

/-! ## The digest in FINAL (R211, 20_memory.md R64) -/

/-- The bytes of a word, most significant first. -/
def wordBytes (w : Word) : List Byte := (List.range 4).map fun j => w.extractLsb' (24 - 8 * j) 8

theorem digestByte_of_word (h : Vector Word 8) (k : Nat) {j : Nat} (hj : j < 4) :
    digestByte h (4 * k + j) = (h.toList.getD k 0).extractLsb' (24 - 8 * j) 8 := by
  have hword : (4 * k + j) / 4 = k := by omega
  have hbyte : (4 * k + j) % 4 = j := by omega
  rw [digestByte, hword, hbyte]
  simp [Vector.getD, List.getD]

/-- The first `n` words serialized are the first `4n` digest bytes. -/
theorem flatMap_wordBytes_range (h : Vector Word 8) (n : Nat) :
    ((List.range n).map (h.toList.getD · 0)).flatMap wordBytes = (List.range (4 * n)).map (digestByte h) := by
  induction n with
  | zero => rfl
  | succ n ih =>
    rw [List.range_succ, List.map_append, List.flatMap_append, ih, Nat.mul_succ, List.range_add, List.map_append]
    rw [List.map_map, List.map_singleton, List.flatMap_singleton, wordBytes]
    exact congrArg _ (List.map_congr_left fun j hj => (digestByte_of_word h n (List.mem_range.1 hj)).symm)

theorem flatMap_wordBytes_take (a : Algorithm) (h : Vector Word 8) :
    (h.toList.take (activeWords a)).flatMap wordBytes = digestBytes a h := by
  have hlen : activeWords a ≤ h.toList.length := by
    rw [Vector.length_toList]
    exact activeWords_le a
  rw [← map_range_getD hlen, flatMap_wordBytes_range, digestBytes]

/-- Settles O39, with the active hash words. -/
theorem rddigSequenceReturnsDigest : Obligations.RddigSequenceReturnsDigest := by
  intro s hls
  refine ⟨s.engine.h.toList.take (activeWords s.engine.alg), ?_, responses_rddigAllOf hls, flatMap_wordBytes_take _ _⟩
  rw [List.length_take, Vector.length_toList, Nat.min_eq_left (activeWords_le _)]

end Sys2Proof.Machine

/-! After a successful INIT nothing from before it can be observed (43_hasher_commands.md R212, 40_buffer.md R125): engines that
differ only in what the spec calls unobservable answer every command alike and stay so. -/

namespace Sys2Proof.Machine

/-! ## The engine's operations on two engines (10_state.md R23, R24, R31) -/

theorem Engine.SameObservable.put_buf {e f : Engine} (h : e.SameObservable f) (hfits : e.fill.toNat < 64) (b : Byte)
    {i : Nat} (hi : i < e.fill.toNat + 1) : bufByte (e.put b).buf i = bufByte (f.put b).buf i := by
  simp only [Machine.put_buf, bufByte_setIfInBounds, ← h.fill]
  by_cases hnew : i = e.fill.toNat
  · rw [if_pos ⟨hnew, hfits⟩, if_pos ⟨hnew, hfits⟩]
  · rw [if_neg fun hn => hnew hn.1, if_neg fun hn => hnew hn.1, h.buf i (by omega)]

/-- The byte that completes a block makes the whole of BUF the same, and with it the block compressed. -/
theorem Engine.SameObservable.absorb {e f : Engine} (h : e.SameObservable f) (hfits : e.fill.toNat < 64) (b : Byte) :
    (e.absorb b).SameObservable (f.absorb b) := by
  have hfitsf : f.fill.toNat < 64 := h.fill ▸ hfits
  have hfill : (e.absorb b).fill.toNat = (f.absorb b).fill.toNat := by
    rw [absorb_fill e b hfits, absorb_fill f b hfitsf, h.fill]
  constructor
  case ls => rw [absorb_ls, absorb_ls, h.ls]
  case alg => rw [absorb_alg, absorb_alg, h.alg]
  case len => rw [absorb_len, absorb_len, h.len]
  case lovf => rw [absorb_lovf, absorb_lovf, h.lovf]
  case err => rw [absorb_err, absorb_err, h.err]
  case errcode => rw [absorb_errcode, absorb_errcode, h.errcode]
  case fill => exact BitVec.eq_of_toNat_eq hfill
  case h =>
    intro hls
    rw [absorb_ls] at hls
    obtain hlt | hfull : e.fill.toNat < 63 ∨ e.fill.toNat = 63 := by omega
    · rw [absorb_h_of_fill_lt e b hlt, absorb_h_of_fill_lt f b (h.fill ▸ hlt), h.h hls]
    · have hbuf : (e.absorb b).buf = (f.absorb b).buf := bufByte_ext fun i hi => by
        rw [absorb_buf, absorb_buf]
        exact h.put_buf hfits b (by omega)
      rw [absorb_h_of_fill_eq e b hfull, absorb_h_of_fill_eq f b (h.fill ▸ hfull), hbuf, h.alg, h.h hls]
  case buf =>
    intro i hi
    rw [absorb_fill e b hfits] at hi
    rw [absorb_buf, absorb_buf]
    exact h.put_buf hfits b (by omega)

theorem Engine.SameObservable.absorbAll (bs : List Byte) : ∀ {e f : Engine}, e.SameObservable f → e.fill.toNat < 64 →
    (e.absorbAll bs).SameObservable (f.absorbAll bs) := by
  induction bs with
  | nil => exact fun h _ => h
  | cons b bs ih => exact fun h hfits => ih (h.absorb hfits b) (absorb_fill_lt _ b hfits)

theorem sameObservable_startMessage (a : Algorithm) (e f : Engine) :
    (e.startMessage a).SameObservable (f.startMessage a) :=
  ⟨rfl, rfl, fun _ => rfl, fun i hi => absurd hi (Nat.not_lt_zero i), rfl, rfl, rfl, rfl, rfl⟩

theorem Engine.SameObservable.updateByte {e f : Engine} (h : e.SameObservable f) (hfits : e.fill.toNat < 64) (b : Byte) :
    (e.updateByte b).SameObservable (f.updateByte b) := by
  have hcounted : Engine.SameObservable { e with lovf := lovfAfterUpdate e.lovf e.len, len := e.len + 1 }
      { f with lovf := lovfAfterUpdate f.lovf f.len, len := f.len + 1 } :=
    { h with
      len := congrArg (· + 1) h.len
      lovf := congrArg₂ lovfAfterUpdate h.lovf h.len }
  exact hcounted.absorb hfits b

theorem Engine.SameObservable.finish {e f : Engine} (h : e.SameObservable f) (hready : e.ls = .ready)
    (hfits : e.fill.toNat < 64) : e.finish.SameObservable f.finish := by
  have hpadded := h.absorbAll (padBytes e.fill.toNat e.len) hfits
  have hls : (e.absorbAll (padBytes e.fill.toNat e.len)).ls ≠ .uninit := by
    rw [(absorbAll_control _ e).ls, hready]
    decide
  rw [finish_eq_absorbAll e hfits, finish_eq_absorbAll f (h.fill ▸ hfits), ← h.fill, ← h.len]
  exact { hpadded with ls := rfl, h := fun _ => hpadded.h hls }

theorem Engine.SameObservable.raise {s t : State} (h : s.engine.SameObservable t.engine) (k : ErrorKind) :
    (raise k s).engine.SameObservable (raise k t).engine :=
  { h with
    err := rfl
    errcode := congrArg₂ (capturedCode · · k) h.err h.errcode }

/-! ## The commands on two engines -/

/-- The data a read answers is the same where its checks pass: H is read in FINAL only. -/
theorem Engine.SameObservable.readData {e f : Engine} (h : e.SameObservable f) {i : Instr}
    (hl : lifecycleLegal i e.ls = true) : readData e i = readData f i := by
  cases i with
  | nop | init _ | update _ | finalize => rfl
  | rddig idx =>
    have hfinal : e.ls = .final := of_decide_eq_true hl
    have hh : e.h = f.h := h.h (by rw [hfinal]; decide)
    exact congrArg (hashWord · idx) hh
  | rdstat => simp only [Machine.readData, statusWord, h.ls, h.alg, h.fill, h.lovf, h.err, h.errcode]
  | rdlen hi => exact congrArg (lenView hi) h.len

/-- Two outcomes with the same answer and the same observable engine, whatever the hosts have still to give. -/
inductive AnsweredAlike : Result → Result → Prop where
  | next {s t : State} (engine : s.engine.SameObservable t.engine) (rsp : s.rsp = t.rsp) :
      AnsweredAlike (.next s) (.next t)
  | fault (r : Fault) : AnsweredAlike (.fault r) (.fault r)

theorem AnsweredAlike.complete {e f : Engine} (h : e.SameObservable f) {s t : State} :
    AnsweredAlike (.next (complete e s)) (.next (complete f t)) :=
  .next h rfl

theorem AnsweredAlike.whereFillFits {s t : State} {r q : Result} (hfill : s.engine.fill = t.engine.fill)
    (h : s.engine.fill.toNat < 64 → AnsweredAlike r q) : AnsweredAlike (whereFillFits s r) (whereFillFits t q) := by
  unfold Machine.whereFillFits
  rw [← hfill]
  split
  next hfits => exact h hfits
  next => exact .fault _

theorem perform_alike {i : Instr} {s t : State} (h : s.engine.SameObservable t.engine)
    (hl : lifecycleLegal i s.engine.ls = true) : AnsweredAlike (perform i s) (perform i t) := by
  have hdata := h.readData hl
  cases i with
  | nop | rddig _ | rdstat | rdlen _ => exact .next h (congrArg (fun d => some (Response.mk okCode d)) hdata)
  | init alg => exact .complete (sameObservable_startMessage _ _ _)
  | update b => exact .whereFillFits h.fill fun hfits => .complete (h.updateByte hfits b)
  | finalize => exact .whereFillFits h.fill fun hfits => .complete (h.finish (of_decide_eq_true hl) hfits)

/-- The checks and the commands see the same. -/
theorem exec_alike (i : Instr) {s t : State} (h : s.engine.SameObservable t.engine) :
    AnsweredAlike (exec i s) (exec i t) := by
  simp only [exec_eq_checked, checked, ← h.alg, ← h.ls]
  split
  · exact .next (h.raise _) rfl
  · split
    · exact .next (h.raise _) rfl
    · next hl => exact perform_alike h (by simpa using hl)

theorem responses_alike (is : List Instr) : ∀ {s t : State}, s.engine.SameObservable t.engine →
    responses is s = responses is t := by
  induction is with
  | nil => exact fun _ => rfl
  | cons i is ih =>
    intro s t h
    have halike := exec_alike i h
    rw [responses, responses]
    generalize exec i s = r, exec i t = q at halike
    cases halike with
    | next engine rsp => exact congrArg₂ List.cons rsp (ih engine)
    | fault _ => rfl

/-- Settles O37: two engines are the same to the host once INIT has started a message, and stay so. -/
theorem initForgetsThePast : Obligations.InitForgetsThePast := by
  intro s t alg is hlegal
  have hstarted : (complete (s.engine.startMessage (algorithmOf alg)) s).engine.SameObservable
      (complete (t.engine.startMessage (algorithmOf alg)) t).engine := sameObservable_startMessage _ _ _
  rw [responses_cons_of_next (exec_init_of_legal hlegal s), responses_cons_of_next (exec_init_of_legal hlegal t),
    responses_alike is hstarted, complete_rsp, complete_rsp]

end Sys2Proof.Machine

/-! The errors (60_exceptions.md): which check a command word fails first, what it then answers and writes, and what clears
ERR; then the steps that leave an engine as it is. -/

namespace Sys2Proof.Machine

/-! ## The code a command answers (R242, R244) -/

/-- The code of the first check a command fails, operand value before lifecycle state; 0 where it passes both. -/
def checkCode (i : Instr) (e : Engine) : BitVec 2 :=
  if operandLegal i e.alg = false then 2 else if lifecycleLegal i e.ls = false then 1 else 0

/-- `t` answers `code`, and where that is an error's the error is all that `t` has and `s` has not (R241). -/
def AnswersCode (code : BitVec 2) (s t : State) : Prop :=
  (∃ d, t.rsp = some ⟨code, d⟩) ∧ (code ≠ 0 → t = erred code s)

theorem answersCode_erred (code : BitVec 2) (s : State) : AnswersCode code s (erred code s) :=
  ⟨⟨0, rfl⟩, fun _ => rfl⟩

theorem AnswersCode.exists_rsp_iff {code c : BitVec 2} {s t : State} (h : AnswersCode code s t) :
    (∃ d, t.rsp = some ⟨c, d⟩) ↔ code = c := by
  obtain ⟨⟨d, hrsp⟩, -⟩ := h
  refine ⟨fun ⟨d', hd'⟩ => ?_, fun hc => ⟨d, hc ▸ hrsp⟩⟩
  exact congrArg Response.err (Option.some.inj (hrsp.symm.trans hd'))

/-- An answer with an error's code is that error, on the state before. -/
theorem AnswersCode.eq_erred {code : BitVec 2} {s t : State} {r : Response} (h : AnswersCode code s t)
    (hrsp : t.rsp = some r) (hr : r.err ≠ 0) : t = erred r.err s := by
  obtain rfl : code = r.err := h.exists_rsp_iff.1 ⟨r.data, hrsp⟩
  exact h.2 hr

theorem AnswersCode.data_eq_zero {code c : BitVec 2} {s t : State} {d : Word} (h : AnswersCode code s t)
    (hrsp : t.rsp = some ⟨c, d⟩) (hc : c ≠ 0) : d = 0 := by
  rw [h.eq_erred hrsp hc] at hrsp
  exact (congrArg Response.data (Option.some.inj hrsp)).symm

theorem exec_answersCode {i : Instr} {s t : State} (h : exec i s = .next t) :
    AnswersCode (checkCode i s.engine) s t := by
  obtain ⟨ho, rfl⟩ | ⟨ho, hl, rfl⟩ | ⟨ho, hl, hp⟩ := exec_next_cases h
  · rw [checkCode, if_pos ho]
    exact answersCode_erred 2 s
  · rw [checkCode, if_neg (by simp [ho]), if_pos hl]
    exact answersCode_erred 1 s
  · rw [checkCode, if_neg (by simp [ho]), if_neg (by simp [hl])]
    exact ⟨hp.rsp_ok, absurd rfl⟩

theorem checkCode_eq_one_iff (i : Instr) (e : Engine) :
    checkCode i e = 1 ↔ operandLegal i e.alg = true ∧ lifecycleLegal i e.ls = false := by
  rw [checkCode]
  split_ifs with ho hl
  · exact iff_of_false (by decide) (by simp [ho])
  · exact iff_of_true rfl ⟨by simpa using ho, hl⟩
  · exact iff_of_false (by decide) (by simp [hl])

/-- The commands that fail the lifecycle check and none before it. -/
theorem out_of_sequence_iff (i : Instr) (e : Engine) :
    operandLegal i e.alg = true ∧ lifecycleLegal i e.ls = false ↔
      ((∃ b, i = .update b) ∧ e.ls ≠ .ready) ∨ (i = .finalize ∧ e.ls ≠ .ready) ∨
      (∃ idx, i = .rddig idx ∧ idx.toNat < activeWords e.alg ∧ e.ls ≠ .final) := by
  cases i <;> simp [operandLegal, lifecycleLegal]

/-- Settles O20: the answer is 1 where the lifecycle check is the first to fail. -/
theorem sequenceErrorExactCases : Obligations.SequenceErrorExactCases := by
  intro i s t h
  have hanswer := exec_answersCode h
  refine ⟨?_, fun d hrsp => hanswer.data_eq_zero hrsp (by decide)⟩
  rw [hanswer.exists_rsp_iff, checkCode_eq_one_iff, out_of_sequence_iff]

/-! ## The code a command word answers (R243, R244) -/

/-- The code of the first check a command word fails, its encoding before its command's checks. -/
def wordCode (cmd : Word) (e : Engine) : BitVec 2 :=
  match decode cmd with
  | .error _ => 2
  | .ok i => checkCode i e

theorem performWord_answersCode {cmd : Word} {s t : State} (h : performWord cmd s = .next t) :
    AnswersCode (wordCode cmd s.engine) s t := by
  obtain ⟨e, hd, rfl⟩ | ⟨i, hd, he⟩ := performWord_next_cases h
  · simp only [wordCode, hd]
    exact answersCode_erred 2 s
  · simp only [wordCode, hd]
    exact exec_answersCode he

theorem step_answersCode {cmd : Word} {rest : List HostInput} {s t : State} (hin : s.inputs = .command cmd :: rest)
    (h : step s = .next t) : AnswersCode (wordCode cmd s.engine) { s with inputs := rest } t :=
  performWord_answersCode ((step_command hin).symm.trans h)

/-- `OP` of a command's word (30_encoding.md R93). -/
def opcodeNumber : Instr → Nat
  | .nop => 0
  | .init _ => 1
  | .update _ => 2
  | .finalize => 3
  | .rddig _ => 4
  | .rdstat => 5
  | .rdlen _ => 6

theorem opcode_of_toNat_eq {cmd : Word} {i : Instr} (h : cmd.toNat = wordValue i) :
    cmd.toNat / 2 ^ 28 = opcodeNumber i := by
  rw [h]
  cases i with
  | nop | finalize | rdstat => rfl
  | init x | update x | rddig x | rdlen x =>
    have hx := x.isLt
    simp only [wordValue, opcodeNumber]
    omega

theorem operandLegal_init_eq_false_iff (alg : BitVec 4) (a : Algorithm) :
    operandLegal (.init alg) a = false ↔ 2 ≤ alg.toNat := by
  rw [operandLegal, decide_eq_false_iff_not, Nat.not_lt]

theorem operandLegal_rddig_eq_false_iff (idx : BitVec 3) (a : Algorithm) :
    operandLegal (.rddig idx) a = false ↔ activeWords a ≤ idx.toNat := by
  rw [operandLegal, decide_eq_false_iff_not, Nat.not_lt]

/-- The operand check in the fields of the command's word. -/
theorem operandLegal_eq_false_iff {cmd : Word} {i : Instr} (h : cmd.toNat = wordValue i) (a : Algorithm) :
    operandLegal i a = false ↔
      (cmd.toNat / 2 ^ 28 = 1 ∧ 2 ≤ cmd.toNat % 16) ∨ (cmd.toNat / 2 ^ 28 = 4 ∧ activeWords a ≤ cmd.toNat % 8) := by
  rw [opcode_of_toNat_eq h]
  cases i with
  | nop | update _ | finalize | rdstat | rdlen _ => simp [operandLegal, opcodeNumber]
  | init alg =>
    have hlow : alg.toNat = cmd.toNat % 16 := toNat_operand (m := 1) (by decide) h
    simp [operandLegal_init_eq_false_iff, opcodeNumber, hlow]
  | rddig idx =>
    have hlow : idx.toNat = cmd.toNat % 8 := toNat_operand (m := 4) (by decide) h
    simp [operandLegal_rddig_eq_false_iff, opcodeNumber, hlow]

/-- The lifecycle check by the opcode of the command's word. -/
theorem lifecycleLegal_eq_false_iff {cmd : Word} {i : Instr} (h : cmd.toNat = wordValue i) (ls : Lifecycle) :
    lifecycleLegal i ls = false ↔
      ((cmd.toNat / 2 ^ 28 = 2 ∨ cmd.toNat / 2 ^ 28 = 3) ∧ ls ≠ .ready) ∨ (cmd.toNat / 2 ^ 28 = 4 ∧ ls ≠ .final) := by
  rw [opcode_of_toNat_eq h]
  cases i <;> simp [lifecycleLegal, opcodeNumber]

/-- The checks of R244 in their order, in the fields of the word. -/
theorem wordCode_eq (cmd : Word) (e : Engine) :
    wordCode cmd e =
      if ∀ q ∈ opcodeTable, ¬ q.Matches cmd then 2
      else if (cmd.toNat / 2 ^ 28 = 1 ∧ 2 ≤ cmd.toNat % 16) ∨
          (cmd.toNat / 2 ^ 28 = 4 ∧ activeWords e.alg ≤ cmd.toNat % 8) then 2
      else if ((cmd.toNat / 2 ^ 28 = 2 ∨ cmd.toNat / 2 ^ 28 = 3) ∧ e.ls ≠ .ready) ∨
          (cmd.toNat / 2 ^ 28 = 4 ∧ e.ls ≠ .final) then 1
      else 0 := by
  cases hd : decode cmd with
  | error err =>
    have hrow : ∀ q ∈ opcodeTable, ¬ q.Matches cmd := by
      intro q hq hmatch
      obtain ⟨i, hi, -⟩ := exists_decode_of_matches hq hmatch
      rw [hd] at hi
      cases hi
    rw [if_pos hrow, wordCode, hd]
  | ok i =>
    obtain ⟨r, hr, hmatch, -⟩ := exists_row_of_decode_eq_ok hd
    have hvalue := decode_eq_ok hd
    rw [if_neg fun hrow => hrow r hr hmatch, wordCode, hd]
    simp only [checkCode, operandLegal_eq_false_iff hvalue, lifecycleLegal_eq_false_iff hvalue]

/-- Settles O21: of the checks of a word, in the order of `wordCode_eq`, the first two answer 2. -/
theorem illegalCommandExactCases : Obligations.IllegalCommandExactCases := by
  intro cmd rest s t hin h
  have hanswer := step_answersCode hin h
  refine ⟨?_, fun d hrsp => hanswer.data_eq_zero hrsp (by decide)⟩
  rw [hanswer.exists_rsp_iff, wordCode_eq]
  split_ifs with hrow hoperand hlifecycle
  · exact iff_of_true rfl (.inl hrow)
  · exact iff_of_true rfl (.inr hoperand)
  · exact iff_of_false (by decide) (not_or.2 ⟨hrow, hoperand⟩)
  · exact iff_of_false (by decide) (not_or.2 ⟨hrow, hoperand⟩)

/-- Where FILL is at most 63 every command word answers a next state. -/
theorem performWord_total (cmd : Word) {s : State} (h : s.engine.fill.toNat < 64) : ∃ t, performWord cmd s = .next t := by
  cases hd : decode cmd with
  | error e => exact ⟨_, performWord_of_decode_error hd s⟩
  | ok i =>
    obtain ⟨t, ht, -⟩ := exec_total i s h
    exact ⟨t, (performWord_of_decode_ok hd s).trans ht⟩

/-- Settles O22: every word is answered, and its code is that of `wordCode_eq`. -/
theorem firstFailedCheckDecidesError : Obligations.FirstFailedCheckDecidesError := by
  rintro s cmd rest _ hin hfits rfl
  obtain ⟨t, ht⟩ := performWord_total cmd (s := { s with inputs := rest }) hfits
  obtain ⟨⟨d, hrsp⟩, -⟩ := performWord_answersCode ht
  exact ⟨t, _, (step_command hin).trans ht, hrsp, wordCode_eq cmd s.engine⟩

theorem wordCode_cases (cmd : Word) (e : Engine) : wordCode cmd e = 0 ∨ wordCode cmd e = 1 ∨ wordCode cmd e = 2 := by
  rw [wordCode_eq]
  split_ifs <;> decide

/-- Settles O23: an answer that is not OK is an error raised on the state before. -/
theorem failedCommandWritesOnlyErrorFlags : Obligations.FailedCommandWritesOnlyErrorFlags := by
  intro cmd rest s t r hin h hrsp hr
  have hanswer := step_answersCode hin h
  have hcode : wordCode cmd s.engine = r.err := hanswer.exists_rsp_iff.1 ⟨r.data, hrsp⟩
  exact ⟨(hcode ▸ wordCode_cases cmd s.engine).resolve_left hr, hanswer.eq_erred hrsp hr⟩

/-! ## What clears ERR (R248) -/

theorem exec_clears_err {i : Instr} {s t : State} (h : exec i s = .next t) (hs : s.engine.err = true)
    (ht : t.engine.err = false) : ∃ alg, i = .init alg ∧ alg.toNat < 2 := by
  have hne : t.engine.err ≠ s.engine.err := by simp [hs, ht]
  cases exec_engineEffect h with
  | held eng => exact absurd (congrArg Engine.err eng) hne
  | flagged k eng => exact absurd ((congrArg Engine.err eng).trans hs.symm) hne
  | started alg instr legal _ => exact ⟨alg, instr, legal⟩
  | updated b _ _ _ eng =>
    obtain ⟨-, -, -, -, herr, -⟩ := updateByte_control b s.engine
    exact absurd (eng ▸ herr) hne
  | finished _ _ fits eng =>
    obtain ⟨-, -, -, -, herr, -⟩ := finish_control s.engine fits
    exact absurd (eng ▸ herr) hne

/-- The words of the two legal INITs. -/
theorem word_of_legal_init {cmd : Word} {alg : BitVec 4} (hd : decode cmd = .ok (.init alg)) (h : alg.toNat < 2) :
    cmd = 0x10000000 ∨ cmd = 0x10000001 := by
  have hvalue : cmd.toNat = 0x10000000 + alg.toNat := decode_eq_ok hd
  bv_omega

theorem performWord_clears_err {cmd : Word} {s t : State} (h : performWord cmd s = .next t) (hs : s.engine.err = true)
    (ht : t.engine.err = false) : cmd = 0x10000000 ∨ cmd = 0x10000001 := by
  obtain ⟨_, -, rfl⟩ | ⟨i, hd, he⟩ := performWord_next_cases h
  · cases ht
  · obtain ⟨alg, rfl, hlegal⟩ := exec_clears_err he hs ht
    exact word_of_legal_init hd hlegal

/-- Settles O25: an idle step and a word other than a legal INIT keep ERR at 1. -/
theorem errorFlagClearedOnlyByInitOrReset : Obligations.ErrorFlagClearedOnlyByInitOrReset := by
  intro s t x rest hin h hs ht
  obtain ⟨hidle, -⟩ | ⟨cmd, rest', hcmd, hp⟩ | ⟨x', rest', hreset, hx, -⟩ := step_next_cases h
  · cases hin.symm.trans hidle
  · obtain ⟨rfl, rfl⟩ := List.cons.inj (hin.symm.trans hcmd)
    obtain rfl | rfl := performWord_clears_err hp hs ht
    · exact .inl rfl
    · exact .inr (.inl rfl)
  · obtain ⟨rfl, rfl⟩ := List.cons.inj (hin.symm.trans hreset)
    exact .inr (.inr hx)

/-! ## The idle engine (R254) and the other engines (R252) -/

/-- Settles O6: a turn with no input is the identity. -/
theorem idleStepHoldsState : Obligations.IdleStepHoldsState := by
  intro s hin
  rw [step, turn, hin]

/-- Everything a step of a platform can do when it answers a next platform. -/
theorem stepInstance_next {n : Config.NumInstances} {k : Fin n.count} {p q : Platform n}
    (h : stepInstance k p = .next q) : ∃ t, step p[k] = .next t ∧ q = p.set k t := by
  unfold stepInstance at h
  split at h <;> cases h
  next t ht => exact ⟨t, ht, rfl⟩

/-- Settles O52: the platform after the step is the one before with the stepped engine in its place. -/
theorem enginesAreIndependent : Obligations.EnginesAreIndependent := by
  intro n k p q h
  obtain ⟨t, ht, rfl⟩ := stepInstance_next h
  refine ⟨?_, fun j hj => ?_⟩
  · simpa using ht
  · simpa using Vector.getElem_set_ne k.isLt j.isLt fun hkj => hj (Fin.ext hkj.symm)

end Sys2Proof.Machine

/-! Reset (70_reset_and_hazards.md R270, R272), and what a step does with every input from every state: it takes the input, it
answers (R271), and it shows nothing of what the spec leaves unspecified (R270, 10_state.md R23, R24, R31). -/

namespace Sys2Proof.Machine

/-! ## Reset -/

/-- STATUS reads 0 after a reset, whatever the registers hold that R270 leaves unspecified. -/
theorem statusWord_afterReset (h : Vector Word 8) (buf : Vector Byte 64) (dp : Datapath) (draws : Nat) :
    statusWord (Engine.afterReset h buf dp draws) = 0 := by
  simp only [statusWord, Engine.afterReset]
  decide

/-- Settles O31: the registers by definition, and STATUS by `statusWord_afterReset`. -/
theorem resetValues : Obligations.ResetValues := by
  have hstatus : statusWord State.reset.engine = 0 := statusWord_afterReset _ _ _ _
  have hrdstat : exec .rdstat State.reset = .next (answered 0 State.reset) := by
    rw [exec_interleavable rfl, readData, hstatus]
    rfl
  exact ⟨rfl, rfl, rfl, rfl, rfl, rfl, rfl, hrdstat⟩

theorem step_reset {s : State} {x : HostInput} {rest : List HostInput} (hin : s.inputs = x :: rest)
    (hx : x = .reset ∨ ∃ cmd, x = .resetDuring cmd) : step s = .next (resetEvent { s with inputs := rest }) := by
  rw [step, turn, hin]
  obtain rfl | ⟨cmd, rfl⟩ := hx <;> rfl

/-- Settles O32: both reset inputs are `resetEvent`. -/
theorem resetEventRestoresResetValues : Obligations.ResetEventRestoresResetValues := by
  intro s x rest hin hx
  exact ⟨_, step_reset hin hx, rfl, rfl, rfl, rfl, rfl, rfl, rfl, rfl, rfl⟩

/-! ## Every input is taken and answered (R271) -/

theorem Performed.inputs {i : Instr} {s t : State} (h : Performed i s t) : t.inputs = s.inputs := by
  cases i with
  | nop | rddig _ | rdstat | rdlen _ => rw [h, respondOk_inputs]
  | init _ => rw [h, complete_inputs]
  | update _ | finalize => rw [h.2, complete_inputs]

theorem exec_inputs {i : Instr} {s t : State} (h : exec i s = .next t) : t.inputs = s.inputs := by
  obtain ⟨-, rfl⟩ | ⟨-, -, rfl⟩ | ⟨-, -, hp⟩ := exec_next_cases h
  · exact raise_inputs _ s
  · exact raise_inputs _ s
  · exact hp.inputs

theorem performWord_inputs {cmd : Word} {s t : State} (h : performWord cmd s = .next t) : t.inputs = s.inputs := by
  obtain ⟨_, -, rfl⟩ | ⟨i, -, he⟩ := performWord_next_cases h
  · exact raise_inputs _ s
  · exact exec_inputs he

/-- A step takes the next input, if there is one, and no other. -/
theorem step_inputs {s t : State} (h : step s = .next t) : t.inputs = s.inputs.tail := by
  obtain ⟨hidle, rfl⟩ | ⟨cmd, rest, hin, hp⟩ | ⟨_, rest, hin, -, rfl⟩ := step_next_cases h
  · rw [hidle, List.tail_nil]
  · rw [performWord_inputs hp, hin, List.tail_cons]
  · rw [resetEvent_inputs, hin, List.tail_cons]

/-- Where FILL is at most 63 a step answers a next state. -/
theorem step_total {s : State} (h : s.engine.fill.toNat < 64) : ∃ t, step s = .next t := by
  cases hin : s.inputs with
  | nil => exact ⟨s, idleStepHoldsState s hin⟩
  | cons x rest =>
    cases x with
    | command cmd =>
      obtain ⟨t, ht⟩ := performWord_total cmd (s := { s with inputs := rest }) h
      exact ⟨t, (step_command hin).trans ht⟩
    | reset => exact ⟨_, step_reset hin (.inl rfl)⟩
    | resetDuring cmd => exact ⟨_, step_reset hin (.inr ⟨cmd, rfl⟩)⟩

/-- Settles O35: the step is answered because the invariant bounds FILL, and it keeps the invariant. -/
theorem everyInputIsAccepted : Obligations.EveryInputIsAccepted := by
  intro s hinv
  obtain ⟨t, ht⟩ := step_total hinv.fill
  exact ⟨t, ht, stepKeepsEngineInvariant s t hinv ht, step_inputs ht⟩

/-! ## What the spec leaves unspecified cannot be observed -/

/-- Two resets are the same to the host: H is not read in UNINIT, and with FILL 0 no byte of BUF counts. -/
theorem sameObservable_afterReset (h h' : Vector Word 8) (buf buf' : Vector Byte 64) (dp dp' : Datapath) (n n' : Nat) :
    (Engine.afterReset h buf dp n).SameObservable (Engine.afterReset h' buf' dp' n') :=
  ⟨rfl, rfl, fun hls => absurd rfl hls, fun i hi => absurd hi (Nat.not_lt_zero i), rfl, rfl, rfl, rfl, rfl⟩

theorem performWord_alike (cmd : Word) {s t : State} (h : s.engine.SameObservable t.engine) :
    AnsweredAlike (performWord cmd s) (performWord cmd t) := by
  cases hd : decode cmd with
  | error e =>
    rw [performWord_of_decode_error hd, performWord_of_decode_error hd]
    exact .next (h.raise .illegalCommand) rfl
  | ok i =>
    rw [performWord_of_decode_ok hd, performWord_of_decode_ok hd]
    exact exec_alike i h

theorem step_alike {s t : State} (h : SameToHost s t) : AnsweredAlike (step s) (step t) := by
  have htin : t.inputs = s.inputs := h.inputs.symm
  cases hin : s.inputs with
  | nil =>
    rw [idleStepHoldsState s hin, idleStepHoldsState t (htin.trans hin)]
    exact .next h.engine h.rsp
  | cons x rest =>
    have hreset (hx : x = .reset ∨ ∃ cmd, x = .resetDuring cmd) : AnsweredAlike (step s) (step t) := by
      rw [step_reset hin hx, step_reset (htin.trans hin) hx]
      exact .next (sameObservable_afterReset _ _ _ _ _ _ _ _) rfl
    cases x with
    | command cmd =>
      rw [step_command hin, step_command (htin.trans hin)]
      exact performWord_alike cmd h.engine
    | reset => exact hreset (.inl rfl)
    | resetDuring cmd => exact hreset (.inr ⟨cmd, rfl⟩)

/-- Settles O36: both steps answer alike by `step_alike`, and each takes the same input by `step_inputs`. -/
theorem unspecifiedStateIsUnobservable : Obligations.UnspecifiedStateIsUnobservable := by
  intro s t h
  have halike := step_alike h
  generalize hs : step s = r, ht : step t = q at halike
  cases halike with
  | next engine rsp => exact ⟨engine, by rw [step_inputs hs, step_inputs ht, h.inputs], rsp⟩
  | fault r => rfl

end Sys2Proof.Machine
